-- ==== Sys2Proof/Word.lean ====
section
/-! DEFINITION. The words of UBD-CORE and their widths (spec/00_scope.md section 4, R5 to R8).

Every one is an unsigned bit vector with bit 0 the least significant (R8, R9). -/

namespace Sys2Proof

/-- The 64-bit word: the generator state, a key, a seed, the `arg` field and the `result` field
(00_scope R5, R6; 30_encoding R24, R26). -/
abbrev Word := BitVec 64

/-- A bucket count or a bucket index: 32 bits (00_scope R6, 20_memory R19). -/
abbrev Count := BitVec 32

/-- A bit width B, 0 to 31: 5 bits (00_scope R7). -/
abbrev Width := BitVec 5

/-- The sticky record of rejections, one bit for each status code 0 to 7 (10_state R14). -/
abbrev ErrorRecord := BitVec 8

/-- The 8-bit `op` field (30_encoding R24). -/
abbrev Opcode := BitVec 8

/-- The 4-bit `status` field (30_encoding R26). -/
abbrev StatusCode := BitVec 4

/-- A command: `op` in bits [71:64], `arg` in bits [63:0] (30_encoding R24). -/
abbrev Command := BitVec 72

/-- A packed response: `status` in bits [67:64], `result` in bits [63:0] (30_encoding R26). -/
abbrev ResponseWord := BitVec 68

end Sys2Proof
end

