-- ==== Sys2Proof/Config.lean ====
section
/-! DEFINITION. What an implementation of UBD-CORE fixes, and the values the spec leaves open.

An open value is an `opaque` constant with no body: no proof can see which value it has, so a
theorem holds for every choice. Waits are counted in rising edges BEYOND the first, so that a latency
is a wait plus one and is at least 1 by its form (70_reset R80). -/

namespace Sys2Proof.Config

/-- The identity string of the block and its command set (00_scope R1, D1). -/
def identity : String := "ubd-core-v1"

/-- `LAT_BWIDTH_MAX` less 1 (70_reset R80, OPEN). -/
opaque bwidthWaitMax : Nat

/-- `LAT_SETN_MAX` less 1 (70_reset R80, OPEN). -/
opaque setnWaitMax : Nat

/-- `LAT_READC` less 1 (70_reset R80, OPEN). -/
opaque readcWait : Nat

/-- `LAT_SEED` less 1 (70_reset R80, OPEN). -/
opaque seedWait : Nat

/-- `LAT_STEP` less 1 (70_reset R80, OPEN). -/
opaque stepWait : Nat

/-- `LAT_READS` less 1 (70_reset R80, OPEN). -/
opaque readsWait : Nat

/-- `LAT_MAP` less 1 (70_reset R80, OPEN). -/
opaque mapWait : Nat

/-- `LAT_SAMPLE` less 1 (70_reset R80, OPEN). -/
opaque sampleWait : Nat

/-- The wait of BWIDTH by its argument, before the bound is applied: it may depend on n (70_reset R80). -/
opaque bwidthWait : Word → Nat

/-- The wait of SETN by its argument, before the bound is applied: it may depend on n (70_reset R80). -/
opaque setnWait : Word → Nat

/-- The wait of a rejected SEED, a constant of its own, before the bound is applied (70_reset R80). -/
opaque seedRejectedWait : Nat

/-- The wait of a rejected STEP, before the bound is applied (70_reset R80). -/
opaque stepRejectedWait : Nat

/-- The wait of a rejected MAP, before the bound is applied (70_reset R80). -/
opaque mapRejectedWait : Nat

/-- The wait of a rejected SAMPLE, before the bound is applied (70_reset R80). -/
opaque sampleRejectedWait : Nat

/-- The wait of a command with a reserved op, before the bound is applied. R80 gives only the bound,
so it may depend on the command and on STATE, NCFG, BCFG and ERRS. -/
opaque reservedWait : Command → Word → Count → Width → ErrorRecord → Nat

/-- Free value: what the circuit of `bit_width` holds at 0, which the spec leaves undefined
(40_bitwidth R38, U1). No command evaluates it. -/
opaque bitWidthOfZero : Width

/-- Free value: what the circuit of `bucket_index` gives outside 1 ≤ N and 2^B ≤ N, where the spec
gives no result (42_mapper R51, U5, N7). No state that a reset leads to evaluates it. -/
opaque indexOutsideContract : Word → Width → Count → Count

end Sys2Proof.Config
end

