-- ==== Sys2Proof/Machine/State.lean ====
section
/-! DEFINITION. The state of the block, its reset value, and the updates of its fields.

Spec: 10_state R10 to R15 (registers), 70_reset R70 to R76 (reset and port), 30_encoding R25, R26. -/

namespace Sys2Proof.Machine

/-- A response: a 4-bit status and a 64-bit result (30_encoding R26). -/
structure Response where
  status : StatusCode
  result : Word
  deriving DecidableEq, Repr

/-- The host's inputs as sampled at one rising edge of `clk` (30_encoding R25). -/
structure Pins where
  rst : Bool
  cmdValid : Bool
  cmdOp : Opcode
  cmdArg : Word
  rspReady : Bool
  deriving DecidableEq, Repr

/-- A host that does nothing: no reset, no command, no response taken. -/
def Pins.quiet : Pins :=
  { rst := false, cmdValid := false, cmdOp := 0#8, cmdArg := 0#64, rspReady := false }

/-- The control state of the port (70_reset R71, R72, R75, R76). -/
inductive Port where
  /-- No reset edge has come since power-on (70_reset R72). -/
  | unreset
  /-- Out of reset, no command accepted and not yet answered (70_reset R75 point 2). -/
  | idle
  /-- A command is accepted; after `wait` further edges the next edge answers it (70_reset R75 point 3). -/
  | busy (command : Command) (wait : Nat)
  /-- The response is offered and held until it is taken (70_reset R75 point 4). -/
  | answering (r : Response)
  deriving DecidableEq, Repr

/-- The whole state: the four registers of 10_state R10 to R14, the port, and the host's inputs at the
coming edges. The inputs are the model's own field (assumption 2); the rest is the spec's. -/
structure State where
  /-- STATE[63:0], the generator state (10_state R10). -/
  state : Word
  /-- NCFG[31:0], the bucket count (10_state R12). -/
  ncfg : Count
  /-- BCFG[4:0], the bit width (10_state R13). -/
  bcfg : Width
  /-- ERRS[7:0], the sticky record of rejections (10_state R14). -/
  errs : ErrorRecord
  /-- The port's control state. -/
  port : Port
  /-- The host's inputs, the next rising edge first; past the end of the list the host is quiet. -/
  pins : List Pins
  deriving DecidableEq, Repr

/-- Why the machine stops with a fault: there is no such reason. The block has no terminal state
(70_reset R81), and its exceptions are rejections, after which it goes on (60_exceptions R59). Having no
constructor is safe: a claim that some step faults is unprovable. -/
inductive Fault where
  deriving DecidableEq, Repr

/-- Why the model has no transition. -/
inductive Refusal where
  /-- Raised by an arm of `exec` whose command has no meaning yet: none. Safe. -/
  | notModelled (mnemonic : String)
  /-- Raised by an edge that offers a command before the first reset: 70_reset R72 says to refuse it.
  Safe: nothing is claimed of such a command. -/
  | commandBeforeReset
  deriving DecidableEq, Repr

/-- The machine right after reset (70_reset R70, R71): every register 0, the port idle; the host has
scheduled no input (assumption 2). -/
def State.reset : State :=
  { state := 0#64, ncfg := 0#32, bcfg := 0#5, errs := 0#8, port := .idle, pins := [] }

/-- The machine after power-on and before the first reset: POWER_ON_STATE, the registers' contents, is an
argument, because the spec constrains it in no way (70_reset R72). -/
def State.powerOn (state : Word) (ncfg : Count) (bcfg : Width) (errs : ErrorRecord) : State :=
  { state := state, ncfg := ncfg, bcfg := bcfg, errs := errs, port := .unreset, pins := [] }

/-- Write STATE. -/
def State.withState (s : State) (v : Word) : State := { s with state := v }

/-- Write NCFG and BCFG in one update (20_memory R20). -/
def State.withConfig (s : State) (n : Count) (b : Width) : State := { s with ncfg := n, bcfg := b }

/-- Write ERRS. -/
def State.withErrs (s : State) (e : ErrorRecord) : State := { s with errs := e }

/-- Put the port into a control state. -/
def State.withPort (s : State) (p : Port) : State := { s with port := p }

/-- Replace the host's inputs. -/
def State.withPins (s : State) (ps : List Pins) : State := { s with pins := ps }

end Sys2Proof.Machine
end

