-- ==== Sys2Proof/Syntax.lean ====
section
/-! DEFINITION. The command set of UBD-CORE, the causes of a rejection, and assembly lines.

Spec: 30_encoding R28 (opcode map), R30 (operands), R33 and R34 (assembly), R27 (status codes). -/

namespace Sys2Proof

/-- The eight commands, one constructor for each row of spec/opcode_table.json (30_encoding R28).
A command that reads `arg` carries all 64 bits of it; READC, STEP, READS and SAMPLE ignore it and
carry none (R30). The operand's type is its whole check: no term is ill-formed. -/
inductive Instr where
  /-- BWIDTH n (40_bitwidth R39). -/
  | bwidth (n : Word)
  /-- SETN n (40_bitwidth R40). -/
  | setn (n : Word)
  /-- READC (40_bitwidth R41). -/
  | readc
  /-- SEED seed (41_generator R47). -/
  | seed (value : Word)
  /-- STEP (41_generator R48). -/
  | step
  /-- READS (41_generator R49). -/
  | reads
  /-- MAP key (42_mapper R56). -/
  | map (key : Word)
  /-- SAMPLE (42_mapper R57). -/
  | sample
  deriving DecidableEq, Repr

/-- The six causes of a rejection (30_encoding R27, 60_exceptions R60). -/
inductive Cause where
  /-- The op is reserved (30_encoding R31). -/
  | illegalOp
  /-- The bucket count argument is 2^32 or more. -/
  | argRange
  /-- The bucket count argument is 0. -/
  | zeroN
  /-- The seed argument is 0. -/
  | zeroSeed
  /-- STATE = 0. -/
  | notSeeded
  /-- NCFG = 0. -/
  | notConfigured
  deriving DecidableEq, Repr

/-- What the decoder answers on a 72-bit word: a command, or the word rejected by its reserved op. -/
inductive Decoded where
  /-- The op is one of the eight opcodes. -/
  | command (i : Instr)
  /-- The op is none of them (30_encoding R31). -/
  | reserved (op : Opcode)
  deriving DecidableEq, Repr

/-- The names an assembly line may begin with: the eight mnemonics and the pseudo-command ADVANCE
(30_encoding R33, R34). -/
inductive Mnemonic where
  | bwidth
  | setn
  | readc
  | seed
  | step
  | reads
  | map
  | sample
  | advance
  deriving DecidableEq, Repr

/-- One assembly line, comment removed: a mnemonic and at most one unsigned operand (30_encoding R33). -/
structure AsmLine where
  mnemonic : Mnemonic
  operand : Option Nat
  deriving DecidableEq, Repr

end Sys2Proof
end

