-- ==== Sys2Proof/Machine/Flags.lean ====
section
/-! DEFINITION. The status codes and the sticky error record: the block's only flags.

Spec: 30_encoding R27 (codes), 10_state R14 and U18 (ERRS), 60_exceptions R59 (the bit a rejection sets). -/

namespace Sys2Proof.Machine

/-- Status 0, OK (30_encoding R27). -/
def statusOk : StatusCode := 0#4

/-- The status code of a rejection (30_encoding R27). -/
def causeCode : Cause → StatusCode
  | .illegalOp => 1#4
  | .argRange => 2#4
  | .zeroN => 3#4
  | .zeroSeed => 4#4
  | .notSeeded => 5#4
  | .notConfigured => 6#4

/-- The bit of ERRS that stands for a cause: bit c for code c (10_state R14). -/
def errorBit (c : Cause) : ErrorRecord := 1#8 <<< (causeCode c).toNat

/-- ERRS[c] ← 1; every other bit is kept, so the record is sticky (60_exceptions R59, R62). -/
def recordError (c : Cause) (e : ErrorRecord) : ErrorRecord := e ||| errorBit c

/-- ERRS as it reads: bits 0 and 7 are hardwired 0 (10_state R14, U18). -/
def errorsRead (e : ErrorRecord) : ErrorRecord := e &&& 0x7E#8

end Sys2Proof.Machine
end

