-- ==== Sys2Proof/Machine/Operands.lean ====
section
/-! DEFINITION. The operand forms of the commands, the conditions under which a command is rejected, and
the word READC reads.

Spec: 30_encoding R30 (operand assembly), 60_exceptions R60 and R61 (causes and their order), 40_bitwidth R41. -/

namespace Sys2Proof.Machine

/-- The bucket count of an argument: its low 32 bits (30_encoding R30). -/
def countOf (arg : Word) : Count := arg.extractLsb' 0 32

/-- The conditions of BWIDTH and SETN, in the order their rules list them: ARG_RANGE, then ZERO_N
(40_bitwidth R39, R40). -/
def countCheck (arg : Word) : Option Cause :=
  if arg.extractLsb' 32 32 ≠ 0#32 then some .argRange
  else if arg = 0#64 then some .zeroN
  else none

/-- The condition of SEED: a seed of 0 is ZERO_SEED (41_generator R47). -/
def seedCheck (arg : Word) : Option Cause :=
  if arg = 0#64 then some .zeroSeed else none

/-- The condition of STEP: STATE = 0 is NOT_SEEDED (41_generator R48). -/
def seededCheck (s : State) : Option Cause :=
  if s.state = 0#64 then some .notSeeded else none

/-- The condition of MAP: NCFG = 0 is NOT_CONFIGURED (42_mapper R56). -/
def configuredCheck (s : State) : Option Cause :=
  if s.ncfg = 0#32 then some .notConfigured else none

/-- The conditions of SAMPLE: NOT_SEEDED before NOT_CONFIGURED (42_mapper R57, 60_exceptions R61). -/
def sampleCheck (s : State) : Option Cause :=
  (seededCheck s).or (configuredCheck s)

/-- The cause a command is rejected for, if any, decided from the command and the registers as they
stand before it (60_exceptions R58, R60). -/
def rejectionOf (i : Instr) (s : State) : Option Cause :=
  match i with
  | .bwidth n => countCheck n
  | .setn n => countCheck n
  | .readc => none
  | .seed v => seedCheck v
  | .step => seededCheck s
  | .reads => none
  | .map _ => configuredCheck s
  | .sample => sampleCheck s

/-- The word READC reads: 16 zero bits, ERRS[7:0], 3 zero bits, BCFG[4:0], NCFG[31:0], from the most
significant end (40_bitwidth R41). -/
def configWord (s : State) : Word :=
  (0#16 ++ errorsRead s.errs ++ 0#3 ++ s.bcfg ++ s.ncfg : BitVec 64)

end Sys2Proof.Machine
end

