-- ==== Sys2Proof/Machine/Ops.lean ====
section
/-! DEFINITION. The shared operations: answering a command, taking a rejection (the block's exception
entry), taking the response (its only return), and reset.

Spec: 30_encoding R26, 60_exceptions R59 and R62, 70_reset R70, R71, R75, 20_memory R20. -/

namespace Sys2Proof.Machine

/-- The outcome of an edge or of a command. -/
abbrev Result := Host.Outcome State Fault Refusal

/-- Offer a response on the port (70_reset R75 point 3). -/
def answer (r : Response) (s : State) : State := s.withPort (.answering r)

/-- Complete an accepted command: status OK and the result (30_encoding R26). -/
def respond (result : Word) (s : State) : Result :=
  .next (answer { status := statusOk, result := result } s)

/-- Rejection entry (60_exceptions R59): ERRS[c] ← 1, status c, result 0; STATE, NCFG and BCFG keep
their values. -/
def reject (c : Cause) (s : State) : State :=
  answer { status := causeCode c, result := 0#64 } (s.withErrs (recordError c s.errs))

/-- `raise CODE()`: the command ends in its rejection, and the block goes on (60_exceptions R59). -/
def raise (c : Cause) (s : State) : Result := .next (reject c s)

/-- A command with its conditions: the first that holds is raised, else the command has its effect
(60_exceptions R58, R61). -/
def guarded (check : Option Cause) (s : State) (effect : Result) : Result :=
  match check with
  | some c => raise c s
  | none => effect

/-- The response is taken and the port is idle again (70_reset R75 point 4). This is all the return a
rejection has (60_exceptions R62). -/
def takeResponse (s : State) : State := s.withPort .idle

/-- A rising edge with `rst` = 1: every register takes its reset value, and a command in flight or a
response not yet taken is discarded (70_reset R70, R71). -/
def resetEdge (s : State) : State := State.reset.withPins s.pins

end Sys2Proof.Machine
end

