-- ==== Sys2Proof/Machine/BitWidthUnit.lean ====
section
/-! DEFINITION. The Bit-Width Unit: the function `bit_width`, its reference loop, and the commands BWIDTH,
SETN and READC (spec/40_bitwidth.md R35 to R41). -/

namespace Sys2Proof.Machine

/-- The largest i below `k` with n[i] = 1, if there is one. -/
def topBit (n : Count) : Nat → Option Nat
  | 0 => none
  | k + 1 => if n.getLsbD k then some k else topBit n k

/-- The bare function `bit_width`: the largest i in 0..31 with n[i] = 1 (40_bitwidth R35). It refuses 0,
for which it is undefined (R38, U1). -/
def bitWidth? (n : Count) : Option Width :=
  (topBit n 32).map (BitVec.ofNat 5)

/-- `bit_width` as a command uses it, after its check that n is not 0. At 0 it is a free value, which
no command evaluates (assumption 8). -/
def bitWidth (n : Count) : Width :=
  (bitWidth? n).getD Config.bitWidthOfZero

/-- The loop of 40_bitwidth R36 with `fuel` rounds at most: while acc ≤ n, double acc and count.
The accumulator has 33 bits, the fewest that R36 allows. -/
def doublingLoop (n : Count) : Nat → BitVec 33 → Nat → Nat × BitVec 33
  | 0, acc, count => (count, acc)
  | fuel + 1, acc, count =>
    if acc ≤ n.setWidth 33 then doublingLoop n fuel (acc <<< 1) (count + 1) else (count, acc)

/-- How often the body of the reference loop runs, and where acc ends (40_bitwidth R36). It starts from
acc = 1 and count = 0. No claim is made of it at 0, which R36 leaves out (assumption 8). -/
def referenceLoop (n : Count) : Nat × BitVec 33 := doublingLoop n 33 1#33 0

/-- `bit_width_ref`: the count less one (40_bitwidth R36). R36 gives it for 1 to 2^32 − 1 only; that it
refuses 0 is the model's choice, the one made for `bitWidth?` (DESIGN CHOICE, assumption 8). -/
def bitWidthRef? (n : Count) : Option Nat :=
  if n = 0#32 then none else some ((referenceLoop n).1 - 1)

/-- BWIDTH (40_bitwidth R39). -/
def execBwidth (n : Word) (s : State) : Result :=
  guarded (countCheck n) s (respond ((bitWidth (countOf n)).setWidth 64) s)

/-- SETN (40_bitwidth R40). NCFG and BCFG are written in one update (20_memory R20). -/
def execSetn (n : Word) (s : State) : Result :=
  guarded (countCheck n) s
    (respond ((bitWidth (countOf n)).setWidth 64) (s.withConfig (countOf n) (bitWidth (countOf n))))

/-- READC (40_bitwidth R41). It is never rejected. -/
def execReadc (s : State) : Result := respond (configWord s) s

end Sys2Proof.Machine
end

