-- ==== Sys2Proof/Machine/Generator.lean ====
section
/-! DEFINITION. The Generator: the function `lfsr_next`, its inverse, and the commands SEED, STEP and READS
(spec/41_generator.md R42 to R49). -/

namespace Sys2Proof.Machine

/-- The feedback bit: the exclusive-or of bits 0, 3, 30 and 55 (41_generator R42). -/
def feedback (s : Word) : BitVec 1 :=
  s.extractLsb' 0 1 ^^^ s.extractLsb' 3 1 ^^^ s.extractLsb' 30 1 ^^^ s.extractLsb' 55 1

/-- `lfsr_next(s)`: the feedback bit above bits [63:1] (41_generator R42). -/
def lfsrNext (s : Word) : Word := (feedback s ++ s.extractLsb' 1 63 : BitVec 64)

/-- `lfsr_prev(t)`: the inverse (41_generator R44). -/
def lfsrPrev (t : Word) : Word :=
  (t.extractLsb' 0 63 ++
    (t.extractLsb' 63 1 ^^^ t.extractLsb' 2 1 ^^^ t.extractLsb' 29 1 ^^^ t.extractLsb' 54 1) : BitVec 64)

/-- The source's `step(state)`, whose precondition is a nonzero state: it refuses 0 (U4). -/
def lfsrStep? (s : Word) : Option Word := if s = 0#64 then none else some (lfsrNext s)

/-- `lfsr_next` applied k times (41_generator R46). -/
def lfsrIter : Nat → Word → Word
  | 0, s => s
  | k + 1, s => lfsrIter k (lfsrNext s)

/-- SEED (41_generator R47). -/
def execSeed (value : Word) (s : State) : Result :=
  guarded (seedCheck value) s (respond value (s.withState value))

/-- STEP (41_generator R48). The result is the value just written. -/
def execStep (s : State) : Result :=
  guarded (seededCheck s) s (respond (lfsrNext s.state) (s.withState (lfsrNext s.state)))

/-- READS (41_generator R49). It is never rejected. -/
def execReads (s : State) : Result := respond s.state s

end Sys2Proof.Machine
end

