-- ==== Sys2Proof/Machine/Mapper.lean ====
section
/-! DEFINITION. The Bucket Mapper: the function `bucket_index` and the commands MAP and SAMPLE
(spec/42_mapper.md R50 to R57). All masks and shifts are at 64 bits (R50, 00_scope R9). -/

namespace Sys2Proof.Machine

/-- The mask of the lowest k bits, 2^k − 1 (42_mapper R50). -/
def maskOf (k : Nat) : Word := (1#64 <<< k) - 1#64

/-- `low_wide` = key[B:0] (42_mapper R50). -/
def lowWide (key : Word) (b : Width) : Word := key &&& maskOf (b.toNat + 1)

/-- `low_shifted` = key[2B:B+1], and 0 when B = 0 (42_mapper R50). -/
def lowShifted (key : Word) (b : Width) : Word := (key >>> (b.toNat + 1)) &&& maskOf b.toNat

/-- `sel`: 1 if low_wide < N, else 0, by an unsigned comparison (42_mapper R50). -/
def selector (key : Word) (b : Width) (n : Count) : Word :=
  if lowWide key b < n.setWidth 64 then 1#64 else 0#64

/-- The selection by multiply-and-add, as R50 writes it. -/
def blend (key : Word) (b : Width) (n : Count) : Word :=
  selector key b n * lowWide key b + (1#64 - selector key b n) * lowShifted key b

/-- The selection by a multiplexer, which R52 allows as well. -/
def multiplex (key : Word) (b : Width) (n : Count) : Word :=
  if lowWide key b < n.setWidth 64 then lowWide key b else lowShifted key b

/-- The contract of `bucket_index`: 1 ≤ N and 2^B ≤ N (42_mapper R51, C6). -/
def mapperContract (b : Width) (n : Count) : Bool :=
  decide (1 ≤ n.toNat) && decide (2 ^ b.toNat ≤ n.toNat)

/-- The bare function `bucket_index` (42_mapper R50). It refuses arguments outside its contract (U5, N7). -/
def bucketIndex? (key : Word) (b : Width) (n : Count) : Option Count :=
  if mapperContract b n then some ((blend key b n).setWidth 32) else none

/-- `bucket_index` as a command uses it. Outside the contract, where no state after a reset is, it is a
free value (assumption 9). -/
def bucketIndex (key : Word) (b : Width) (n : Count) : Count :=
  (bucketIndex? key b n).getD (Config.indexOutsideContract key b n)

/-- MAP (42_mapper R56). -/
def execMap (key : Word) (s : State) : Result :=
  guarded (configuredCheck s) s (respond ((bucketIndex key s.bcfg s.ncfg).setWidth 64) s)

/-- SAMPLE (42_mapper R57). The key is the whole of STATE, which is not advanced. -/
def execSample (s : State) : Result :=
  guarded (sampleCheck s) s (respond ((bucketIndex s.state s.bcfg s.ncfg).setWidth 64) s)

end Sys2Proof.Machine
end

