-- ==== Sys2Proof/Machine/Dispatch.lean ====
section
/-! DEFINITION. One arm for each command of spec/opcode_table.json (30_encoding R28): the meaning it calls. -/

namespace Sys2Proof.Machine

/-- The meaning of a command at the edge that answers it (70_reset R75 point 3). -/
def exec (i : Instr) (s : State) : Host.Outcome State Fault Refusal :=
  match i with
  | .bwidth n => Sys2Proof.Machine.execBwidth n s
  | .setn n => Sys2Proof.Machine.execSetn n s
  | .readc => Sys2Proof.Machine.execReadc s
  | .seed value => Sys2Proof.Machine.execSeed value s
  | .step => Sys2Proof.Machine.execStep s
  | .reads => Sys2Proof.Machine.execReads s
  | .map key => Sys2Proof.Machine.execMap key s
  | .sample => Sys2Proof.Machine.execSample s

end Sys2Proof.Machine
end

