-- ==== Sys2Proof/WellFormed.lean ====
section
/-! DEFINITION. Which assembly lines are well formed (30_encoding R33, R34).

`Instr` needs no check: its operands are 64-bit words, and every 64-bit `arg` is admitted (R30). -/

namespace Sys2Proof

/-- The mnemonics written with one operand (30_encoding R33; R34 for ADVANCE). -/
def Mnemonic.takesOperand : Mnemonic → Bool
  | .bwidth | .setn | .seed | .map | .advance => true
  | .readc | .step | .reads | .sample => false

/-- Check 1: an operand stands exactly where R33 writes one. -/
def AsmLine.operandPresent (l : AsmLine) : Bool :=
  l.operand.isSome == l.mnemonic.takesOperand

/-- Check 2: the operand of a command fits the 64-bit `arg` field (R24). The count of ADVANCE is no
`arg` and has no bound (R34). -/
def AsmLine.operandFits (l : AsmLine) : Bool :=
  match l.operand with
  | none => true
  | some v => l.mnemonic == .advance || decide (v < 2 ^ 64)

/-- A well-formed assembly line passes both checks. -/
def AsmLine.wf (l : AsmLine) : Bool :=
  l.operandPresent && l.operandFits

end Sys2Proof
end

