-- ==== Sys2Proof/Decode.lean ====
section
/-! DEFINITION. The decoder, total on every 72-bit word, and after it the encoder.

Spec: 30_encoding R24 (fields), R28 (opcodes), R29 (decoding), R31 (reserved ops), R33 (ignored
arguments are written 0). -/

namespace Sys2Proof

/-- The `op` field, bits [71:64] (30_encoding R24). -/
def opOf (c : Command) : Opcode := c.extractLsb' 64 8

/-- The `arg` field, bits [63:0] (30_encoding R24). -/
def argOf (c : Command) : Word := c.extractLsb' 0 64

/-- The command word of two fields (30_encoding R24). -/
def commandOf (op : Opcode) (arg : Word) : Command := op ++ arg

/-- Decoding compares all 8 bits of `op` with the table of R28; `arg` takes no part (30_encoding R29).
Any other `op` is reserved (R31). -/
def decode (c : Command) : Decoded :=
  if opOf c = 0x10#8 then .command (.bwidth (argOf c))
  else if opOf c = 0x11#8 then .command (.setn (argOf c))
  else if opOf c = 0x12#8 then .command .readc
  else if opOf c = 0x20#8 then .command (.seed (argOf c))
  else if opOf c = 0x21#8 then .command .step
  else if opOf c = 0x22#8 then .command .reads
  else if opOf c = 0x30#8 then .command (.map (argOf c))
  else if opOf c = 0x31#8 then .command .sample
  else .reserved (opOf c)

/-- The opcode of a command (30_encoding R28). -/
def Instr.opcode : Instr → Opcode
  | .bwidth _ => 0x10#8
  | .setn _ => 0x11#8
  | .readc => 0x12#8
  | .seed _ => 0x20#8
  | .step => 0x21#8
  | .reads => 0x22#8
  | .map _ => 0x30#8
  | .sample => 0x31#8

/-- The `arg` field of a command: its operand, and 0 where the command takes none (30_encoding R33). -/
def Instr.argField : Instr → Word
  | .bwidth n => n
  | .setn n => n
  | .readc => 0#64
  | .seed v => v
  | .step => 0#64
  | .reads => 0#64
  | .map k => k
  | .sample => 0#64

/-- The 72-bit word of a command. -/
def encode (i : Instr) : Command := commandOf i.opcode i.argField

/-- The command word whose bits are `w`, of which the table gives the lowest `nbits`: the bits above
them are 0. -/
def commandOfNumber (nbits w : Nat) : Command := BitVec.ofNat 72 (w % 2 ^ nbits)

/-- The instruction the decoder reads from a word numbered as spec/opcode_table.json numbers it; none
where the op is reserved. A command crosses the port as one whole word, so no byte order enters
(20_memory R17). -/
def decodeTableWord (nbits w : Nat) : Option Instr :=
  match decode (commandOfNumber nbits w) with
  | .command i => some i
  | .reserved _ => none

end Sys2Proof
end

