-- ==== Sys2Proof/Machine/Timing.lean ====
section
/-! DEFINITION. The latency of a command, from the open parameters of Config (spec/70_reset_and_hazards.md R80).

A wait is a latency less 1. Every rejected command's wait is capped by its command's bound, because R80 bounds
L(op) for accepted and rejected alike (assumption 5). -/

namespace Sys2Proof.Machine

/-- The bound on a command's latency: its `LAT_` parameter (70_reset R80). -/
def latencyBound : Instr → Nat
  | .bwidth _ => Config.bwidthWaitMax + 1
  | .setn _ => Config.setnWaitMax + 1
  | .readc => Config.readcWait + 1
  | .seed _ => Config.seedWait + 1
  | .step => Config.stepWait + 1
  | .reads => Config.readsWait + 1
  | .map _ => Config.mapWait + 1
  | .sample => Config.sampleWait + 1

/-- The largest of the bounds, which also bounds a command with a reserved op (70_reset R80). -/
def longestLatency : Nat :=
  [Config.bwidthWaitMax, Config.setnWaitMax, Config.readcWait, Config.seedWait, Config.stepWait,
    Config.readsWait, Config.mapWait, Config.sampleWait].foldl max 0 + 1

/-- The wait of a command by whether it is accepted. For BWIDTH and SETN it may depend on n; for the others
it is a constant of the command and of accept or reject (70_reset R80). -/
def instrWait (i : Instr) (accepted : Bool) : Nat :=
  match i with
  | .bwidth n => min (Config.bwidthWait n) Config.bwidthWaitMax
  | .setn n => min (Config.setnWait n) Config.setnWaitMax
  | .readc => Config.readcWait
  | .seed _ => if accepted then Config.seedWait else min Config.seedRejectedWait Config.seedWait
  | .step => if accepted then Config.stepWait else min Config.stepRejectedWait Config.stepWait
  | .reads => Config.readsWait
  | .map _ => if accepted then Config.mapWait else min Config.mapRejectedWait Config.mapWait
  | .sample => if accepted then Config.sampleWait else min Config.sampleRejectedWait Config.sampleWait

/-- The wait of a command word accepted in a state. The registers do not change while it is in flight, so
whether it will be rejected is already settled (60_exceptions R58, 70_reset R76). -/
def waitOf (c : Command) (s : State) : Nat :=
  match decode c with
  | .command i => instrWait i (rejectionOf i s).isNone
  | .reserved _ => min (Config.reservedWait c s.state s.ncfg s.bcfg s.errs) (longestLatency - 1)

/-- L(op): the rising edges from acceptance to `rsp_valid` = 1, at least 1 (70_reset R75 point 3, R80). -/
def latencyOf (c : Command) (s : State) : Nat := waitOf c s + 1

end Sys2Proof.Machine
end

