-- ==== Sys2Proof/Machine/Port.lean ====
section
/-! DEFINITION. The command port: its inputs and outputs, and what one rising edge of `clk` does.

Spec: 30_encoding R25, 70_reset R71, R72, R74, R75, R76. -/

namespace Sys2Proof.Machine

/-- The inputs sampled at the next rising edge; a host with none left is quiet (assumption 2). -/
def pinsNow (s : State) : Pins := s.pins.headD Pins.quiet

/-- The state once those inputs are sampled. -/
def consumePins (s : State) : State := s.withPins s.pins.tail

/-- The command on the port: `cmd_op` above `cmd_arg` (70_reset R75 point 1). -/
def offeredCommand (p : Pins) : Command := commandOf p.cmdOp p.cmdArg

/-- The host offers one command and takes no response. -/
def Pins.offer (c : Command) : Pins :=
  { rst := false, cmdValid := true, cmdOp := opOf c, cmdArg := argOf c, rspReady := false }

/-- The host takes a response and offers nothing. -/
def Pins.take : Pins :=
  { rst := false, cmdValid := false, cmdOp := 0#8, cmdArg := 0#64, rspReady := true }

/-- The host holds the block in reset. -/
def Pins.holdReset : Pins :=
  { rst := true, cmdValid := false, cmdOp := 0#8, cmdArg := 0#64, rspReady := false }

/-- The output ports that carry a value: `cmd_ready`, and the response while `rsp_valid` = 1. -/
structure Outputs where
  cmdReady : Bool
  rsp : Option Response
  deriving DecidableEq, Repr

/-- `rsp_valid` = 1 exactly when a response is offered. -/
def Outputs.rspValid (o : Outputs) : Bool := o.rsp.isSome

/-- The outputs while `rst` has a level: `cmd_ready` = 1 exactly when the block is idle and out of reset,
a response exactly while it is held, neither while `rst` = 1 (70_reset R71, R75). Before the first reset they
are unspecified, so the model gives none (70_reset R72). -/
def outputs (s : State) (rst : Bool) : Option Outputs :=
  match s.port with
  | .unreset => none
  | .idle => some { cmdReady := !rst, rsp := none }
  | .busy _ _ => some { cmdReady := false, rsp := none }
  | .answering r => some { cmdReady := false, rsp := if rst then none else some r }

/-- The 68-bit word of a response (30_encoding R26). -/
def packResponse (r : Response) : ResponseWord := (r.status ++ r.result : BitVec 68)

/-- Accept a command: the port is busy with it for its latency (70_reset R75 points 1 and 3). -/
def acceptCommand (c : Command) (s : State) : State := s.withPort (.busy c (waitOf c s))

/-- Perform a command at the edge that answers it: the meaning of the command it decodes to, or the
rejection ILLEGAL_OP, which changes nothing but ERRS[1] (30_encoding R31). -/
def performCommand (c : Command) (s : State) : Result :=
  match decode c with
  | .command i => exec i s
  | .reserved _ => raise .illegalOp s

/-- What an edge with `rst` = 0 does, given the inputs sampled at it (70_reset R72, R74, R75, R76). -/
def runEdge (p : Pins) (s : State) : Result :=
  match s.port with
  | .unreset => if p.cmdValid then .refused .commandBeforeReset else .next s
  | .idle => if p.cmdValid then .next (acceptCommand (offeredCommand p) s) else .next s
  | .busy c (k + 1) => .next (s.withPort (.busy c k))
  | .busy c 0 => performCommand c s
  | .answering _ => if p.rspReady then .next (takeResponse s) else .next s

/-- One rising edge of `clk`: the inputs are sampled, and reset wins over everything (70_reset R70, R71). -/
def clockEdge (s : State) : Result :=
  if (pinsNow s).rst then .next (resetEdge (consumePins s))
  else runEdge (pinsNow s) (consumePins s)

/-- The machine in which a command is accepted and its latency has run out but for one edge, so that the
next edge performs it, for a block that has been reset. The inputs are left as they are, but where the next
sample asserts `rst` a quiet one is put before it (assumption 3). -/
def placeAccepted (c : Command) (s : State) : State :=
  (s.withPort (.busy c 0)).withPins
    (if (pinsNow s).rst then Pins.quiet :: s.pins else s.pins)

/-- Place a command for the very next step. A block that has been reset has accepted it. One that has not
can accept none: the command is offered to it at the next edge, which refuses it (70_reset R72). -/
def placeCommand (c : Command) (s : State) : State :=
  match s.port with
  | .unreset => s.withPins (Pins.offer c :: s.pins)
  | .idle => placeAccepted c s
  | .busy _ _ => placeAccepted c s
  | .answering _ => placeAccepted c s

end Sys2Proof.Machine
end

