-- ==== Sys2Proof/Machine/Step.lean ====
section
/-! DEFINITION. One step of the machine is one rising edge of `clk` (30_encoding R25, 70_reset R75). -/

namespace Sys2Proof.Machine

/-- The step function. -/
def step (s : State) : Host.Outcome State Fault Refusal := clockEdge s

/-- The state whose very next step runs the command with these bits, numbered as spec/opcode_table.json
numbers them, or refuses it where the block was never reset (70_reset R72, assumption 3). -/
def State.withFetchWord (s : State) (nbits w : Nat) : State :=
  placeCommand (commandOfNumber nbits w) s

end Sys2Proof.Machine
end

