-- ==== Sys2Proof/Machine/Assembler.lean ====
section
/-! DEFINITION. Assembly text and the hexadecimal print form of a command (30_encoding R33, R34).

R33 leaves lexical details open; assumption 13 lists what is chosen here. -/

namespace Sys2Proof.Machine

/-- Blank characters between the words of a line. -/
def isBlank (c : Char) : Bool := c == ' ' || c == '\t' || c == '\r'

/-- One more character in front of a list of words: it joins the first word. -/
def joinFirst (c : Char) : List (List Char) → List (List Char)
  | [] => [[c]]
  | w :: ws => (c :: w) :: ws

/-- Split a text at every character that satisfies `p`; pieces may be empty. -/
def splitAtEach (p : Char → Bool) : List Char → List (List Char)
  | [] => [[]]
  | c :: cs => if p c then [] :: splitAtEach p cs else joinFirst c (splitAtEach p cs)

/-- The words of a line. -/
def wordsOf (line : List Char) : List (List Char) :=
  (splitAtEach isBlank line).filter (fun w => !w.isEmpty)

/-- A line up to its comment, which `;` starts (30_encoding R33). -/
def withoutComment (line : List Char) : List Char := line.takeWhile (fun c => c != ';')

/-- The names of R33 and R34. -/
def mnemonicTable : List (List Char × Mnemonic) :=
  [("BWIDTH".toList, .bwidth), ("SETN".toList, .setn), ("READC".toList, .readc),
    ("SEED".toList, .seed), ("STEP".toList, .step), ("READS".toList, .reads),
    ("MAP".toList, .map), ("SAMPLE".toList, .sample), ("ADVANCE".toList, .advance)]

/-- The mnemonic a word names. -/
def mnemonicOf (w : List Char) : Option Mnemonic := mnemonicTable.lookup w

/-- The value of a decimal digit. -/
def decimalDigit (c : Char) : Option Nat :=
  if '0' ≤ c ∧ c ≤ '9' then some (c.toNat - 48) else none

/-- The value of a hexadecimal digit, of either case. -/
def hexDigit (c : Char) : Option Nat :=
  if '0' ≤ c ∧ c ≤ '9' then some (c.toNat - 48)
  else if 'A' ≤ c ∧ c ≤ 'F' then some (c.toNat - 55)
  else if 'a' ≤ c ∧ c ≤ 'f' then some (c.toNat - 87)
  else none

/-- Read digits in a base, most significant first, from the value `acc` of those already read; `_` may stand
between two digits (30_encoding R33). `after` says that the character before was a digit. -/
def digitsValue (base : Nat) (digit : Char → Option Nat) : List Char → Nat → Bool → Option Nat
  | [], acc, after => if after then some acc else none
  | c :: cs, acc, after =>
    if c = '_' then (if after then digitsValue base digit cs acc false else none)
    else (digit c).bind fun d => digitsValue base digit cs (acc * base + d) true

/-- The value of a number: `0x` and hexadecimal digits, or decimal digits (30_encoding R33). -/
def numberOf (w : List Char) : Option Nat :=
  match w with
  | '0' :: 'x' :: digits => digitsValue 16 hexDigit digits 0 false
  | _ => digitsValue 10 decimalDigit w 0 false

/-- Read one line: nothing on a line with no words, else its mnemonic and operand. It refuses any other
text. -/
def parseLine (line : List Char) : Option (Option AsmLine) :=
  match wordsOf (withoutComment line) with
  | [] => some none
  | [m] => (mnemonicOf m).map fun n => some { mnemonic := n, operand := none }
  | [m, v] => (mnemonicOf m).bind fun n => (numberOf v).map fun x => some { mnemonic := n, operand := some x }
  | _ => none

/-- The commands a mnemonic stands for, with its operand's value: one, but k STEPs for ADVANCE k
(30_encoding R34). -/
def commandsOf (m : Mnemonic) (v : Nat) : List Instr :=
  match m with
  | .bwidth => [.bwidth (BitVec.ofNat 64 v)]
  | .setn => [.setn (BitVec.ofNat 64 v)]
  | .readc => [.readc]
  | .seed => [.seed (BitVec.ofNat 64 v)]
  | .step => [.step]
  | .reads => [.reads]
  | .map => [.map (BitVec.ofNat 64 v)]
  | .sample => [.sample]
  | .advance => List.replicate v .step

/-- The commands of a line; it refuses an ill-formed one. -/
def expandLine (l : AsmLine) : Option (List Instr) :=
  if l.wf then some (commandsOf l.mnemonic (l.operand.getD 0)) else none

/-- The commands of one line of text. -/
def assembleLine (line : List Char) : Option (List Instr) :=
  (parseLine line).bind fun parsed =>
    match parsed with
    | none => some []
    | some l => expandLine l

/-- The commands of some lines, in order. -/
def assembleLines : List (List Char) → Option (List Instr)
  | [] => some []
  | l :: ls => (assembleLine l).bind fun is => (assembleLines ls).map fun rest => is ++ rest

/-- Assemble a text, one command on each line, to command words (30_encoding R33). -/
def assemble (text : List Char) : Option (List Command) :=
  (assembleLines (splitAtEach (fun c => c == '\n') text)).map fun is => is.map encode

/-- The hexadecimal digit of a value below 16. -/
def hexChar (d : Nat) : Char := Char.ofNat (if d < 10 then d + 48 else d + 55)

/-- The lowest `k` hexadecimal digits of a number, most significant first. -/
def hexDigits : Nat → Nat → List Char
  | 0, _ => []
  | k + 1, n => hexDigits k (n / 16) ++ [hexChar (n % 16)]

/-- The print form `op_arg` behind `0x`: two hexadecimal digits of op, `_`, sixteen of arg
(30_encoding R33). -/
def printCommand (c : Command) : List Char :=
  '0' :: 'x' :: (hexDigits 2 (opOf c).toNat ++ '_' :: hexDigits 16 (argOf c).toNat)

end Sys2Proof.Machine
end

