-- ==== Sys2Proof/Safety.lean ====
section
/-! DEFINITION. The terms in which claims about runs are made: the invariant of every state after a reset,
runs of edges, what the host observes of them, and the transaction-level view of the block
(state × command → state × response, D2; 70_reset R81). -/

namespace Sys2Proof.Machine

/-- B is the bit width of n: 2^B ≤ n < 2^(B+1) (40_bitwidth R35). -/
def IsBitWidth (n : Count) (b : Width) : Prop :=
  2 ^ b.toNat ≤ n.toNat ∧ n.toNat < 2 ^ (b.toNat + 1)

/-- A state after an accepted command: status OK, the result, nothing else changed (30_encoding R26). -/
def answeredWith (result : Word) (s : State) : State :=
  { s with port := .answering { status := 0#4, result := result } }

/-- A state after a rejection with a code: ERRS[code] ← 1, that status, result 0, nothing else changed
(60_exceptions R59). -/
def rejectedWith (code : Nat) (s : State) : State :=
  { s with
    errs := s.errs ||| (1#8 <<< code)
    port := .answering { status := BitVec.ofNat 4 code, result := 0#64 } }

/-- The index that 42_mapper R50 gives a key, in plain arithmetic: key[B:0] if it is below N, else
key[2B:B+1]. -/
def indexByArithmetic (key b n : Nat) : Nat :=
  if key % 2 ^ (b + 1) < n then key % 2 ^ (b + 1) else key / 2 ^ (b + 1) % 2 ^ b

/-- NCFG and BCFG agree (10_state R13). -/
def ConfigConsistent (s : State) : Prop :=
  (s.ncfg = 0#32 → s.bcfg = 0#5) ∧ (s.ncfg ≠ 0#32 → IsBitWidth s.ncfg s.bcfg)

/-- The hardwired bits of ERRS hold 0 (10_state R14). -/
def ErrorsHardwired (s : State) : Prop :=
  s.errs.getLsbD 0 = false ∧ s.errs.getLsbD 7 = false

/-- A response the block may produce: status 0 to 6, and result 0 unless the status is OK
(30_encoding R26, R27). -/
def LegalResponse (r : Response) : Prop :=
  r.status.toNat ≤ 6 ∧ (r.status ≠ 0#4 → r.result = 0#64)

/-- A control state of the port after a reset: a wait stays below the largest latency bound (70_reset R80),
and a response offered is a legal one. -/
def LegalPort : Port → Prop
  | .unreset => False
  | .idle => True
  | .busy _ k => k < longestLatency
  | .answering r => LegalResponse r

/-- What holds of the block in every state after a reset. -/
structure Inv (s : State) : Prop where
  config : ConfigConsistent s
  errors : ErrorsHardwired s
  port : LegalPort s.port

/-- `k` edges; none if the model refuses one of them. -/
def steps : Nat → State → Option State
  | 0, s => some s
  | k + 1, s =>
    match step s with
    | .next t => steps k t
    | .fault _ => none
    | .refused _ => none

/-- No reset is asserted at the next `k` edges. -/
def ResetFree (k : Nat) (s : State) : Prop := ∀ p ∈ s.pins.take k, p.rst = false

/-- The command accepted at the next edge, if one is (70_reset R75 point 1). -/
def acceptedNow (s : State) : List Command :=
  match s.port with
  | .idle => if !(pinsNow s).rst && (pinsNow s).cmdValid then [offeredCommand (pinsNow s)] else []
  | .unreset => []
  | .busy _ _ => []
  | .answering _ => []

/-- The response taken at the next edge, if one is (70_reset R75 point 4). -/
def deliveredNow (s : State) : List Response :=
  match s.port with
  | .answering r => if !(pinsNow s).rst && (pinsNow s).rspReady then [r] else []
  | .unreset => []
  | .idle => []
  | .busy _ _ => []

/-- What the host observes of `k` edges: the commands accepted and the responses taken, each in order. -/
def observe : Nat → State → List Command × List Response
  | 0, _ => ([], [])
  | k + 1, s =>
    match step s with
    | .next t => (acceptedNow s ++ (observe k t).1, deliveredNow s ++ (observe k t).2)
    | .fault _ => ([], [])
    | .refused _ => ([], [])

/-- The response of performing a command, with the state in which it has been taken. -/
def completed : Result → Option (Response × State)
  | .next t =>
    match t.port with
    | .answering r => some (r, takeResponse t)
    | .unreset => none
    | .idle => none
    | .busy _ _ => none
  | .fault _ => none
  | .refused _ => none

/-- The transaction level: a command and a state give a response and a state in which the block is idle
again (D2, 70_reset R81). A command is accepted only by an idle block (70_reset R75 point 2, R76), so the
transaction is refused in any other state, and before the first reset (70_reset R72). -/
def transact (c : Command) (s : State) : Option (Response × State) :=
  match s.port with
  | .idle => completed (performCommand c s)
  | .unreset => none
  | .busy _ _ => none
  | .answering _ => none

/-- A run at the transaction level: the responses, one for each command in order, and the final state
(70_reset R81). -/
def session : List Command → State → Option (List Response × State)
  | [], s => some ([], s)
  | c :: cs, s =>
    (transact c s).bind fun rt => (session cs rt.2).map fun rest => (rt.1 :: rest.1, rest.2)

end Sys2Proof.Machine
end

