-- ==== Sys2Proof/Certificates/Slice0/Obligations.lean ====
section
/-! DEFINITION. The statements for the provers.

A statement about `exec` gives the whole next state as `{ s with … }`: the fields it names are written and
every other field of the state is unchanged, which is its frame. The block has no memory (20_memory R16), so no
frame speaks of one. -/

open Sys2Proof Sys2Proof.Machine

/-! ## Encoding and decoding -/

/-- 30_encoding R24, R28, R29: decode and encode agree in both directions. A word that decodes to a command is its
encoding but for an ignored argument, which is written 0 (R30, R33). -/
def Obligations.DecodeEncodeRoundTrip : Prop :=
  (∀ i : Instr, decode (encode i) = .command i ∧ opOf (encode i) = i.opcode ∧ argOf (encode i) = i.argField) ∧
  (∀ (c : Command) (i : Instr), decode c = .command i →
    encode i = c ∨
      ((i = .readc ∨ i = .step ∨ i = .reads ∨ i = .sample) ∧ encode i = commandOf (opOf c) 0#64))

/-- 30_encoding R28, R24: words written out from the opcode table decode to their commands. -/
def Obligations.TableWordsDecode : Prop :=
  decode 0x100000000000000078#72 = .command (.bwidth 120#64) ∧
  decode 0x110000000100000078#72 = .command (.setn 0x100000078#64) ∧
  decode 0x12000000000000ABCD#72 = .command .readc ∧
  decode 0x208000000000000000#72 = .command (.seed 0x8000000000000000#64) ∧
  decode 0x21000000000000FFFF#72 = .command .step ∧
  decode 0x220000000000000000#72 = .command .reads ∧
  decode 0x300000000000001F7D#72 = .command (.map 0x1F7D#64) ∧
  decode 0x310000000000000000#72 = .command .sample ∧
  decode 0x130000000000000078#72 = .reserved 0x13#8

/-- 30_encoding R29: a word selects a command exactly when its op is one of the eight opcodes, and two words with
one op select the same command, whatever their arguments. -/
def Obligations.DecodeSelectsByOpcodeAlone : Prop :=
  (∀ c : Command, (∃ i, decode c = .command i) ↔
    opOf c ∈ [0x10#8, 0x11#8, 0x12#8, 0x20#8, 0x21#8, 0x22#8, 0x30#8, 0x31#8]) ∧
  (∀ (c d : Command) (i : Instr), opOf c = opOf d → decode c = .command i →
    ∃ j, decode d = .command j ∧ j.opcode = i.opcode)

/-- 30_encoding R31: the 248 reserved ops are rejected with ILLEGAL_OP, which changes only ERRS[1]; the other ops
are not reserved. -/
def Obligations.ReservedOpcodesRejected : Prop :=
  (∀ (op : Opcode) (arg : Word) (s : State),
    (op.toNat ≤ 0x0F ∨ (0x13 ≤ op.toNat ∧ op.toNat ≤ 0x1F) ∨ (0x23 ≤ op.toNat ∧ op.toNat ≤ 0x2F) ∨
      0x32 ≤ op.toNat) →
    decode (commandOf op arg) = .reserved op ∧
      performCommand (commandOf op arg) s = .next (rejectedWith 1 s)) ∧
  (∀ (op : Opcode) (arg : Word), decode (commandOf op arg) = .reserved op →
    op.toNat ≤ 0x0F ∨ (0x13 ≤ op.toNat ∧ op.toNat ≤ 0x1F) ∨ (0x23 ≤ op.toNat ∧ op.toNat ≤ 0x2F) ∨ 0x32 ≤ op.toNat) ∧
  ((List.range 256).filter (fun k => decode (commandOf (BitVec.ofNat 8 k) 0#64) = .reserved (BitVec.ofNat 8 k))).length
    = 248

/-- 30_encoding R30: READC, STEP, READS and SAMPLE behave as with argument 0 whatever the argument, in effect and in
latency. -/
def Obligations.IgnoredArgumentHasNoEffect : Prop :=
  ∀ (op : Opcode) (arg : Word) (s : State), op ∈ [0x12#8, 0x21#8, 0x22#8, 0x31#8] →
    performCommand (commandOf op arg) s = performCommand (commandOf op 0#64) s ∧
    acceptCommand (commandOf op arg) s =
      { acceptCommand (commandOf op 0#64) s with port := .busy (commandOf op arg) (waitOf (commandOf op 0#64) s) }

/-- 30_encoding R33: the print form of a command has 21 characters and reads back, as a number, to the command's 72
bits; so two commands with one print form are equal. That the digits are capitals is the model's choice
(assumption 13). -/
def Obligations.PrintFormReadsBack : Prop :=
  ∀ c : Command, (printCommand c).length = 21 ∧ numberOf (printCommand c) = some c.toNat

/-- 30_encoding R33, R34: a well-formed line that is no ADVANCE is one command whose argument is its operand, or 0
where it takes none; an ill-formed line is refused. R33 says no word of ill-formed lines: refusing them is the model's
choice (assumption 13). -/
def Obligations.AssembledLineIsOneCommand : Prop :=
  (∀ l : AsmLine, l.wf = true → l.mnemonic ≠ .advance →
    ∃ i, expandLine l = some [i] ∧ (argOf (encode i)).toNat = l.operand.getD 0 ∧
      opOf (encode i) = match l.mnemonic with
        | .bwidth => 0x10#8 | .setn => 0x11#8 | .readc => 0x12#8 | .seed => 0x20#8 | .step => 0x21#8
        | .reads => 0x22#8 | .map => 0x30#8 | .sample => 0x31#8 | .advance => 0x00#8) ∧
  (∀ l : AsmLine, l.wf = false → expandLine l = none)

/-- 30_encoding R34: ADVANCE k is k STEPs. On a seeded block they answer k times and leave STATE at lfsr_next^k, with
every other register as it was (41_generator R46, R48). -/
def Obligations.AdvanceExpandsToSteps : Prop :=
  (∀ k : Nat, expandLine { mnemonic := .advance, operand := some k } = some (List.replicate k .step)) ∧
  (∀ (k : Nat) (s : State), s.state ≠ 0#64 → s.port = .idle →
    ∃ rs, session ((List.replicate k Instr.step).map encode) s = some (rs, { s with state := lfsrIter k s.state }) ∧
      rs.length = k)

/-! ## Bit-Width Unit -/

/-- 40_bitwidth R35, and R38 for 0: `bit_width` is the unique exponent B with 2^B ≤ n < 2^(B+1), the index of the
most significant 1 bit; at 0 the bare function has no value (93_implementation_defined U1: refuse). -/
def Obligations.BitWidthIsFloorLog2 : Prop :=
  (∀ n : Count, n ≠ 0#32 → ∃ b : Width, bitWidth? n = some b ∧ IsBitWidth n b ∧
    (∀ k : Nat, 2 ^ k ≤ n.toNat → n.toNat < 2 ^ (k + 1) → k = b.toNat) ∧
    n.getLsbD b.toNat = true ∧ ∀ i, b.toNat < i → n.getLsbD i = false) ∧
  bitWidth? 1#32 = some 0#5 ∧ bitWidth? 0#32 = none

/-- 40_bitwidth R36, marked there as derived from R35: the reference loop runs its body B + 1 times, ends with acc = 2^(B+1) in a 33-bit accumulator, and
its count less one is bit_width(n). At 0, which R36 leaves out, bit_width_ref refuses (assumption 8). -/
def Obligations.ReferenceLoopComputesBitWidth : Prop :=
  (∀ n : Count, n ≠ 0#32 → ∃ b : Width, bitWidth? n = some b ∧ bitWidthRef? n = some b.toNat ∧
    (referenceLoop n).1 = b.toNat + 1 ∧ (referenceLoop n).2.toNat = 2 ^ (b.toNat + 1)) ∧
  bitWidthRef? 0#32 = none

/-- 40_bitwidth R39: BWIDTH. -/
def Obligations.BwidthResultAndFrame : Prop :=
  ∀ (n : Word) (s : State),
    decode (commandOf 0x10#8 n) = .command (.bwidth n) ∧
    (2 ^ 32 ≤ n.toNat → exec (.bwidth n) s = .next (rejectedWith 2 s)) ∧
    (n.toNat = 0 → exec (.bwidth n) s = .next (rejectedWith 3 s)) ∧
    (1 ≤ n.toNat → n.toNat < 2 ^ 32 →
      ∃ b : Width, IsBitWidth (n.setWidth 32) b ∧ exec (.bwidth n) s = .next (answeredWith (b.setWidth 64) s))

/-- 40_bitwidth R40: SETN. A rejected SETN keeps NCFG and BCFG. -/
def Obligations.SetnResultAndFrame : Prop :=
  ∀ (n : Word) (s : State),
    decode (commandOf 0x11#8 n) = .command (.setn n) ∧
    (2 ^ 32 ≤ n.toNat → exec (.setn n) s = .next (rejectedWith 2 s)) ∧
    (n.toNat = 0 → exec (.setn n) s = .next (rejectedWith 3 s)) ∧
    (1 ≤ n.toNat → n.toNat < 2 ^ 32 →
      ∃ b : Width, IsBitWidth (n.setWidth 32) b ∧
        exec (.setn n) s = .next (answeredWith (b.setWidth 64) { s with ncfg := n.setWidth 32, bcfg := b }))

/-- 40_bitwidth R41: READC, with ERRS[0] and ERRS[7] read as 0 (10_state R14). -/
def Obligations.ReadcResultAndFrame : Prop :=
  ∀ (arg : Word) (s : State),
    decode (commandOf 0x12#8 arg) = .command .readc ∧
    ∃ r : Word, exec .readc s = .next (answeredWith r s) ∧
      r.extractLsb' 0 32 = s.ncfg ∧ r.extractLsb' 32 5 = s.bcfg ∧ r.extractLsb' 37 3 = 0#3 ∧
      (∀ i, 1 ≤ i → i ≤ 6 → r.getLsbD (40 + i) = s.errs.getLsbD i) ∧
      r.getLsbD 40 = false ∧ r.getLsbD 47 = false ∧ r.extractLsb' 48 16 = 0#16

/-! ## Generator -/

/-- 41_generator R42: lfsr_next bit by bit, and as a shift with the feedback bit put on top. -/
def Obligations.LfsrNextBitByBit : Prop :=
  ∀ s : Word,
    (lfsrNext s).getLsbD 63 = (s.getLsbD 0 ^^ s.getLsbD 3 ^^ s.getLsbD 30 ^^ s.getLsbD 55) ∧
    (∀ i, i ≤ 62 → (lfsrNext s).getLsbD i = s.getLsbD (i + 1)) ∧
    lfsrNext s = (s >>> 1) |||
      ((BitVec.ofBool (s.getLsbD 0 ^^ s.getLsbD 3 ^^ s.getLsbD 30 ^^ s.getLsbD 55)).setWidth 64 <<< 63)

/-- 41_generator R44, marked there as derived from R42: lfsr_prev inverts lfsr_next on both sides; 0 is a fixed point, and no nonzero state leads
to 0. -/
def Obligations.LfsrIsInvertibleAndKeepsNonzero : Prop :=
  (∀ s : Word, lfsrPrev (lfsrNext s) = s ∧ lfsrNext (lfsrPrev s) = s) ∧
  lfsrNext 0#64 = 0#64 ∧ (∀ s : Word, s ≠ 0#64 → lfsrNext s ≠ 0#64) ∧ Function.Bijective lfsrNext

/-- 41_generator R43, marked there as derived from R42: with a_t = bit 0 after t steps, the state after t steps holds a_t … a_(t+63), and a obeys
the recurrence of the taps. -/
def Obligations.LfsrOutputObeysRecurrence : Prop :=
  ∀ (s : Word) (t : Nat),
    (∀ i, i ≤ 63 → (lfsrIter t s).getLsbD i = (lfsrIter (t + i) s).getLsbD 0) ∧
    (lfsrIter (t + 64) s).getLsbD 0 =
      ((lfsrIter t s).getLsbD 0 ^^ (lfsrIter (t + 3) s).getLsbD 0 ^^ (lfsrIter (t + 30) s).getLsbD 0 ^^
        (lfsrIter (t + 55) s).getLsbD 0)

/-- 41_generator R45, marked there as derived from R42 by computation: from any nonzero state, 2^64 − 1 steps return to it, no fewer do, no state on the way is 0, and
every nonzero state is visited. -/
def Obligations.LfsrHasMaximalPeriod : Prop :=
  ∀ s : Word, s ≠ 0#64 →
    lfsrIter (2 ^ 64 - 1) s = s ∧
    (∀ k, 0 < k → k < 2 ^ 64 - 1 → lfsrIter k s ≠ s ∧ lfsrIter k s ≠ 0#64) ∧
    (∀ t : Word, t ≠ 0#64 → ∃ k, k < 2 ^ 64 - 1 ∧ lfsrIter k s = t)

/-- 70_reset R78, marked there as derived from 41_generator R42: after k ≤ 63 steps, bit i of the new state is bit i + k of the old one, for i ≤ 63 − k. -/
def Obligations.LfsrCopiesBitsDown : Prop :=
  ∀ (s : Word) (k i : Nat), k ≤ 63 → i ≤ 63 - k → (lfsrIter k s).getLsbD i = s.getLsbD (i + k)

/-- 41_generator R47: SEED. -/
def Obligations.SeedResultAndFrame : Prop :=
  ∀ (v : Word) (s : State),
    decode (commandOf 0x20#8 v) = .command (.seed v) ∧
    (v = 0#64 → exec (.seed v) s = .next (rejectedWith 4 s)) ∧
    (v ≠ 0#64 → exec (.seed v) s = .next (answeredWith v { s with state := v }))

/-- 41_generator R48: STEP. The result is the new STATE and is never 0. -/
def Obligations.StepResultAndFrame : Prop :=
  ∀ (arg : Word) (s : State),
    decode (commandOf 0x21#8 arg) = .command .step ∧
    (s.state = 0#64 → exec .step s = .next (rejectedWith 5 s)) ∧
    (s.state ≠ 0#64 → lfsrNext s.state ≠ 0#64 ∧
      exec .step s = .next (answeredWith (lfsrNext s.state) { s with state := lfsrNext s.state }))

/-- 41_generator R49: READS. -/
def Obligations.ReadsResultAndFrame : Prop :=
  ∀ (arg : Word) (s : State),
    decode (commandOf 0x22#8 arg) = .command .reads ∧ exec .reads s = .next (answeredWith s.state s)

/-- 41_generator R46: on a seeded block, after any commands none of which is an accepted SEED, STATE is lfsr_next
applied once for each STEP among them, whatever the others are. -/
def Obligations.GeneratorIsDeterministic : Prop :=
  ∀ (cs : List Command) (s t : State) (rs : List Response), s.state ≠ 0#64 →
    (∀ c ∈ cs, ∀ v : Word, v ≠ 0#64 → decode c ≠ .command (.seed v)) →
    session cs s = some (rs, t) →
    t.state = lfsrIter (cs.countP (fun c => decode c == .command .step)) s.state

/-! ## Bucket Mapper -/

/-- 42_mapper R50: within its contract bucket_index has the value of plain arithmetic. That the bare function has no
value outside the contract is U5 and N7, as assumption 9 (DESIGN CHOICE) takes them: R50 writes its steps there too. -/
def Obligations.BucketIndexValue : Prop :=
  ∀ (key : Word) (b : Width) (n : Count),
    (1 ≤ n.toNat → 2 ^ b.toNat ≤ n.toNat →
      ∃ r : Count, bucketIndex? key b n = some r ∧ r.toNat = indexByArithmetic key.toNat b.toNat n.toNat) ∧
    (n.toNat < 2 ^ b.toNat → bucketIndex? key b n = none)

/-- 42_mapper R52: the multiply-and-add blend and the multiplexer give one value, for all arguments. -/
def Obligations.BlendEqualsMultiplexer : Prop :=
  ∀ (key : Word) (b : Width) (n : Count), blend key b n = multiplex key b n

/-- 42_mapper R51, marked there as derived from R50: the range guarantee, from 2^B ≤ N alone. -/
def Obligations.BucketIndexBelowCount : Prop :=
  ∀ (key : Word) (b : Width) (n : Count), 1 ≤ n.toNat → 2 ^ b.toNat ≤ n.toNat →
    ∃ r : Count, bucketIndex? key b n = some r ∧ r.toNat < n.toNat

/-- 42_mapper R53, marked there as derived from R50: only key[2B:0] matters; bit 63 never does. -/
def Obligations.OnlyLowKeyBitsMatter : Prop :=
  ∀ (key other : Word) (b : Width) (n : Count),
    (∀ i, i ≤ 2 * b.toNat → key.getLsbD i = other.getLsbD i) → bucketIndex? key b n = bucketIndex? other b n

/-- 42_mapper R54, marked there as derived from R50: for a power of two the fallback is taken exactly when key[B] = 1, and then the result is
key[2B:B+1]; for every N some key takes the fallback; for N = 1 the result is 0. -/
def Obligations.FallbackCondition : Prop :=
  (∀ (key : Word) (b : Width) (n : Count), n.toNat = 2 ^ b.toNat →
    (n.toNat ≤ key.toNat % 2 ^ (b.toNat + 1) ↔ key.getLsbD b.toNat = true) ∧
    (key.getLsbD b.toNat = true →
      ∃ r : Count, bucketIndex? key b n = some r ∧ r.toNat = key.toNat / 2 ^ (b.toNat + 1) % 2 ^ b.toNat)) ∧
  (∀ (b : Width) (n : Count), IsBitWidth n b → ∃ key : Word, n.toNat ≤ (lowWide key b).toNat) ∧
  (∀ key : Word, bucketIndex? key 0#5 1#32 = some 0#32)

/-- 42_mapper R55, marked there as derived from R50: over all values of key[2B:0], index i is hit 2^B times, and 2^(B+1) − N times more if i < 2^B; the
direct path is taken N · 2^B times. -/
def Obligations.IndexDistribution : Prop :=
  ∀ (n : Count) (b : Width), IsBitWidth n b →
    (∀ i, i < n.toNat →
      ((Finset.range (2 ^ (2 * b.toNat + 1))).filter
        (fun k => bucketIndex? (BitVec.ofNat 64 k) b n = some (BitVec.ofNat 32 i))).card
        = 2 ^ b.toNat + if i < 2 ^ b.toNat then 2 ^ (b.toNat + 1) - n.toNat else 0) ∧
    ((Finset.range (2 ^ (2 * b.toNat + 1))).filter
      (fun k => selector (BitVec.ofNat 64 k) b n = 1#64)).card = n.toNat * 2 ^ b.toNat

/-- 42_mapper R56: MAP. A configured MAP completes; where 2^BCFG ≤ NCFG, as in every state after a reset, its
result is the bucket index and lies below NCFG. Elsewhere the result is a free value (assumption 9), of which only its
32 bits are said. -/
def Obligations.MapResultAndFrame : Prop :=
  ∀ (key : Word) (s : State),
    decode (commandOf 0x30#8 key) = .command (.map key) ∧
    (s.ncfg = 0#32 → exec (.map key) s = .next (rejectedWith 6 s)) ∧
    (s.ncfg ≠ 0#32 → ∃ r : Count, exec (.map key) s = .next (answeredWith (r.setWidth 64) s) ∧
      (2 ^ s.bcfg.toNat ≤ s.ncfg.toNat →
        r.toNat = indexByArithmetic key.toNat s.bcfg.toNat s.ncfg.toNat ∧ r.toNat < s.ncfg.toNat))

/-- 42_mapper R57, 60_exceptions R61: SAMPLE. NOT_SEEDED is reported before NOT_CONFIGURED; STATE is not advanced.
Outside 2^BCFG ≤ NCFG the result is a free value (assumption 9). -/
def Obligations.SampleResultAndFrame : Prop :=
  ∀ (arg : Word) (s : State),
    decode (commandOf 0x31#8 arg) = .command .sample ∧
    (s.state = 0#64 → exec .sample s = .next (rejectedWith 5 s)) ∧
    (s.state ≠ 0#64 → s.ncfg = 0#32 → exec .sample s = .next (rejectedWith 6 s)) ∧
    (s.state ≠ 0#64 → s.ncfg ≠ 0#32 → ∃ r : Count, exec .sample s = .next (answeredWith (r.setWidth 64) s) ∧
      (2 ^ s.bcfg.toNat ≤ s.ncfg.toNat →
        r.toNat = indexByArithmetic s.state.toNat s.bcfg.toNat s.ncfg.toNat ∧ r.toNat < s.ncfg.toNat))

/-- 42_mapper R57: on a seeded block SAMPLE gives the response and the state of READS followed by MAP of the value
read; on an idle one the same holds of the transaction-level run. -/
def Obligations.SampleEqualsReadsThenMap : Prop :=
  (∀ s : State, s.state ≠ 0#64 → ∃ t, exec .sample s = .next t ∧
    exec .reads s = .next (answeredWith s.state s) ∧
    exec (.map s.state) (takeResponse (answeredWith s.state s)) = .next t) ∧
  (∀ s : State, s.state ≠ 0#64 → s.port = .idle → ∃ r t, transact (encode .sample) s = some (r, t) ∧
    session [encode .reads, encode (.map s.state)] s = some ([{ status := 0#4, result := s.state }, r], t))

/-! ## Rejections -/

/-- 60_exceptions R60, 30_encoding R27: every command word is answered, and each status stands exactly under its
condition; where SAMPLE meets two, NOT_SEEDED stands (R61). Codes 7 to 15 are never produced. -/
def Obligations.StatusSaysExactlyTheCause : Prop :=
  ∀ (c : Command) (s : State), ∃ t r, performCommand c s = .next t ∧ t.port = .answering r ∧
    (r.status = 1#4 ↔ opOf c ∉ [0x10#8, 0x11#8, 0x12#8, 0x20#8, 0x21#8, 0x22#8, 0x30#8, 0x31#8]) ∧
    (r.status = 2#4 ↔ (opOf c = 0x10#8 ∨ opOf c = 0x11#8) ∧ 2 ^ 32 ≤ (argOf c).toNat) ∧
    (r.status = 3#4 ↔ (opOf c = 0x10#8 ∨ opOf c = 0x11#8) ∧ argOf c = 0#64) ∧
    (r.status = 4#4 ↔ opOf c = 0x20#8 ∧ argOf c = 0#64) ∧
    (r.status = 5#4 ↔ (opOf c = 0x21#8 ∨ opOf c = 0x31#8) ∧ s.state = 0#64) ∧
    (r.status = 6#4 ↔ (opOf c = 0x30#8 ∨ (opOf c = 0x31#8 ∧ s.state ≠ 0#64)) ∧ s.ncfg = 0#32) ∧
    r.status.toNat ≤ 6

/-- 60_exceptions R59: a rejection writes only its ERRS bit, with its status and result 0; an accepted command leaves
ERRS alone. -/
def Obligations.RejectionIsPrecise : Prop :=
  ∀ (c : Command) (s : State), ∃ t r, performCommand c s = .next t ∧ t.port = .answering r ∧
    (r.status ≠ 0#4 → t = rejectedWith r.status.toNat s) ∧ (r.status = 0#4 → t.errs = s.errs)

/-- 10_state R14, 60_exceptions R61, R62: without a reset no edge clears a bit of ERRS and at most one of bits 1 to 6
is newly set; an edge with reset clears them all. -/
def Obligations.ErrorRecordIsSticky : Prop :=
  ∀ s t : State, step s = .next t →
    ((pinsNow s).rst = true → t.errs = 0#8) ∧
    ((pinsNow s).rst = false →
      t.errs = s.errs ∨ ∃ c, 1 ≤ c ∧ c ≤ 6 ∧ t.errs = s.errs ||| (1#8 <<< c))

/-- 10_state R10: without a reset STATE changes only at the edge that answers an accepted SEED or STEP, and then as
that command says. -/
def Obligations.OnlySeedAndStepWriteState : Prop :=
  ∀ s t : State, step s = .next t → (pinsNow s).rst = false → t.state ≠ s.state →
    ∃ c, s.port = .busy c 0 ∧
      ((∃ v, v ≠ 0#64 ∧ decode c = .command (.seed v) ∧ t.state = v) ∨
       (decode c = .command .step ∧ s.state ≠ 0#64 ∧ t.state = lfsrNext s.state))

/-- 10_state R12, R13: without a reset NCFG and BCFG change only at the edge that answers an accepted SETN, together. -/
def Obligations.OnlySetnWritesConfiguration : Prop :=
  ∀ s t : State, step s = .next t → (pinsNow s).rst = false → (t.ncfg ≠ s.ncfg ∨ t.bcfg ≠ s.bcfg) →
    ∃ c n, s.port = .busy c 0 ∧ decode c = .command (.setn n) ∧ 1 ≤ n.toNat ∧ n.toNat < 2 ^ 32 ∧
      t.ncfg = n.setWidth 32 ∧ IsBitWidth t.ncfg t.bcfg

/-- 10_state R11 (its invariant is marked there as derived), R12: a seeded generator stays seeded and a configured mapper stays configured until a reset. -/
def Obligations.SeededAndConfiguredPersist : Prop :=
  ∀ s t : State, step s = .next t → (pinsNow s).rst = false →
    (s.state ≠ 0#64 → t.state ≠ 0#64) ∧ (s.ncfg ≠ 0#32 → t.ncfg ≠ 0#32)

/-! ## Reset, port and runs -/

/-- 10_state R13 (marked there as derived), R14, 70_reset R70: the invariant holds right after reset. -/
def Obligations.ResetStateMeetsInvariant : Prop := Inv State.reset

/-- 10_state R13 (marked there as derived), R14, 30_encoding R26, R27, 70_reset R80: every edge keeps the invariant: NCFG and BCFG agree, the
hardwired bits of ERRS hold 0, and the port holds a legal wait or a legal response. -/
def Obligations.EveryStepKeepsInvariant : Prop :=
  ∀ s t : State, Inv s → step s = .next t → Inv t

/-- 70_reset R70, R71: an edge with rst = 1, in any state, gives every register its reset value and leaves the port
idle; while rst = 1 no port but an unreset one shows cmd_ready or rsp_valid, and with rst = 0 the block is then ready. That it is ready at
once, before the first edge with rst = 0, rests on assumptions 4 and 11 (both DEDUCED from R71 and R75). -/
def Obligations.ResetEdgeResetsEverything : Prop :=
  (∀ s : State, (pinsNow s).rst = true →
    ∃ t, step s = .next t ∧ t.state = 0#64 ∧ t.ncfg = 0#32 ∧ t.bcfg = 0#5 ∧ t.errs = 0#8 ∧
      t.pins = s.pins.tail ∧ t.port = .idle ∧ outputs t false = some { cmdReady := true, rsp := none }) ∧
  (∀ s : State, s.port ≠ .unreset → outputs s true = some { cmdReady := false, rsp := none })

/-- 70_reset R74: an idle block with no command and no reset keeps every register. -/
def Obligations.IdleBlockKeepsItsRegisters : Prop :=
  ∀ s : State, s.port = .idle → (pinsNow s).rst = false → (pinsNow s).cmdValid = false →
    step s = .next { s with pins := s.pins.tail }

/-- 70_reset R75 points 1 and 2, R76: a command is accepted exactly where cmd_ready and cmd_valid are 1 and rst is 0;
cmd_ready is 1 exactly when the block is idle and out of reset; while a command is outstanding none is accepted. -/
def Obligations.CommandAcceptedOnlyWhenIdle : Prop :=
  (∀ s : State, s.port = .idle → (pinsNow s).rst = false → (pinsNow s).cmdValid = true →
    step s = .next { s with
      port := .busy (commandOf (pinsNow s).cmdOp (pinsNow s).cmdArg)
        (latencyOf (commandOf (pinsNow s).cmdOp (pinsNow s).cmdArg) s - 1)
      pins := s.pins.tail }) ∧
  (∀ (s : State) (rst : Bool) (o : Outputs), outputs s rst = some o →
    (o.cmdReady = true ↔ s.port = .idle ∧ rst = false)) ∧
  (∀ s t : State, step s = .next t → (pinsNow s).rst = false → ∀ c k, t.port = .busy c k →
    s.port = .busy c (k + 1) ∨ (s.port = .idle ∧ (pinsNow s).cmdValid = true))

/-- 70_reset R75 point 4: a response stands unchanged on the port until an edge with rsp_ready = 1, which takes it and
leaves the block idle. -/
def Obligations.ResponseHeldUntilTaken : Prop :=
  ∀ (s : State) (r : Response), s.port = .answering r → (pinsNow s).rst = false →
    outputs s false = some { cmdReady := false, rsp := some r } ∧
    ((pinsNow s).rspReady = false → step s = .next { s with pins := s.pins.tail }) ∧
    ((pinsNow s).rspReady = true → step s = .next { s with port := .idle, pins := s.pins.tail })

/-- 70_reset R72: before the first reset the model gives no outputs and refuses a command; a reset edge ends it. -/
def Obligations.CommandBeforeResetIsRefused : Prop :=
  ∀ s : State, s.port = .unreset →
    (∀ rst, outputs s rst = none) ∧
    ((pinsNow s).rst = false → (pinsNow s).cmdValid = true → step s = .refused .commandBeforeReset) ∧
    ((pinsNow s).rst = true → ∃ t, step s = .next t ∧ t.port = .idle)

/-- 70_reset R80: every latency is at least 1 and within its bound; a reserved op's is within the largest bound, which
bounds every command. That a rejected command's latency keeps its command's bound is assumption 5. -/
def Obligations.LatencyIsBounded : Prop :=
  ∀ (c : Command) (s : State), 1 ≤ latencyOf c s ∧ latencyOf c s ≤ longestLatency ∧
    ∀ i, decode c = .command i → latencyOf c s ≤ latencyBound i

/-- 70_reset R80, 42_mapper R52: but for BWIDTH and SETN the latency is a function of the opcode and of accept or
reject alone: not of the argument, of STATE, of NCFG or of BCFG. -/
def Obligations.LatencyIsDataIndependent : Prop :=
  ∀ (i j : Instr) (s u t v : State) (r q : Response),
    i.opcode = j.opcode → i.opcode ≠ 0x10#8 → i.opcode ≠ 0x11#8 →
    exec i s = .next t → t.port = .answering r → exec j u = .next v → v.port = .answering q →
    (r.status = 0#4 ↔ q.status = 0#4) →
    latencyOf (encode i) s = latencyOf (encode j) u

/-- 70_reset R75 point 3: an offered command is answered exactly L(op) edges after the edge that accepts it, by the state
its meaning gives; until then no response is offered and no register has changed. -/
def Obligations.CommandAnsweredAfterItsLatency : Prop :=
  ∀ (s : State) (c : Command), s.port = .idle → (pinsNow s).cmdValid = true →
    commandOf (pinsNow s).cmdOp (pinsNow s).cmdArg = c → ResetFree (latencyOf c s + 1) s →
    (∀ k, 1 ≤ k → k ≤ latencyOf c s →
      steps k s = some { s with port := .busy c (latencyOf c s - k), pins := s.pins.drop k }) ∧
    ∃ t, steps (latencyOf c s + 1) s = some t ∧
      performCommand c { s with pins := s.pins.drop (latencyOf c s + 1) } = .next t

/-- 70_reset R76, R81, 20_memory R20, R21, D2: whatever the host does with the port, short of a reset, the responses it
takes and the registers it leaves are those of the transaction-level run of the commands accepted, in order. -/
def Obligations.PortRefinesTransactions : Prop :=
  ∀ (k : Nat) (s t : State), s.port = .idle → ResetFree k s → steps k s = some t → t.port = .idle →
    session (observe k s).1 { s with pins := [] } = some ((observe k s).2, { t with pins := [] })

/-- 70_reset R81: once reset, the block never stops: every edge gives a next state, and again a reset one. -/
def Obligations.NoTerminalStateAfterReset : Prop :=
  ∀ s : State, s.port ≠ .unreset → ∃ t, step s = .next t ∧ t.port ≠ .unreset

/-- A step runs the decoded command. At the edge that answers it, the step is the meaning of the command at that state,
with the edge's inputs consumed; a reserved word is rejected there (70_reset R75 point 3, 30_encoding R31). -/
def Obligations.StepRunsDecodedInstruction : Prop :=
  ∀ (s : State) (c : Command), s.port = .busy c 0 → (pinsNow s).rst = false →
    (∀ i, decode c = .command i → step s = exec i { s with pins := s.pins.tail }) ∧
    (∀ op, decode c = .reserved op → step s = .next (rejectedWith 1 { s with pins := s.pins.tail }))

/-- The model's own interface (assumption 3): in a block that has been reset, a command placed by withFetchWord is
performed by the very next step, from the registers as they were; in one that has not, that step refuses it
(70_reset R72). -/
def Obligations.PlacedCommandRunsNext : Prop :=
  ∀ (s : State) (i : Instr),
    (s.port ≠ .unreset → step (s.withFetchWord 72 (encode i).toNat) =
      exec i { s with
        port := .busy (encode i) 0
        pins := if (pinsNow s).rst then s.pins else s.pins.tail }) ∧
    (s.port = .unreset → step (s.withFetchWord 72 (encode i).toNat) = .refused .commandBeforeReset)

/-- 20_memory R21, 30_encoding R26, R27: a run from an idle block is answered once for each command, by legal responses,
and leaves it idle; running one list of commands after another is running their concatenation. A command issued before
the first reset (70_reset R72), or to a block that is not idle (R76), has no transaction. -/
def Obligations.SessionAnswersEveryCommandInOrder : Prop :=
  (∀ (cs : List Command) (s : State), s.port = .idle → ∃ rs t, session cs s = some (rs, t) ∧ t.port = .idle ∧
    rs.length = cs.length ∧ ∀ r ∈ rs, LegalResponse r) ∧
  (∀ (c : Command) (cs : List Command) (s : State), s.port ≠ .idle → session (c :: cs) s = none) ∧
  (∀ (cs ds : List Command) (s t : State) (rs : List Response), session cs s = some (rs, t) →
    session (cs ++ ds) s = (session ds t).map (fun rest => (rs ++ rest.1, rest.2)))

/-- 70_reset R77 (marked there as derived), 20_memory R20: a MAP right after an accepted SETN uses the new N and the new B together. -/
def Obligations.MapAfterSetnUsesNewPair : Prop :=
  ∀ (n key : Word) (s : State), 1 ≤ n.toNat → n.toNat < 2 ^ 32 → s.port = .idle →
    ∃ (b : Width) (r : Count), IsBitWidth (n.setWidth 32) b ∧
      r.toNat = indexByArithmetic key.toNat b.toNat n.toNat ∧ r.toNat < n.toNat ∧
      session [encode (.setn n), encode (.map key)] s =
        some ([{ status := 0#4, result := b.setWidth 64 }, { status := 0#4, result := r.setWidth 64 }],
          { s with ncfg := n.setWidth 32, bcfg := b })

/-- 70_reset R73: from reset, SETN and SEED in either order lead to one state, in which SAMPLE is accepted. -/
def Obligations.BootStepsInEitherOrder : Prop :=
  ∀ n v : Word, 1 ≤ n.toNat → n.toNat < 2 ^ 32 → v ≠ 0#64 →
    ∃ t rs rs' r, session [encode (.setn n), encode (.seed v)] State.reset = some (rs, t) ∧
      session [encode (.seed v), encode (.setn n)] State.reset = some (rs', t) ∧ t.errs = 0#8 ∧
      transact (encode .sample) t = some (r, t) ∧ r.status = 0#4 ∧ r.result.toNat < n.toNat

/-- 20_memory section 3: every command but STEP is idempotent, rejected ones and reserved ops included: a second
issue gives the same response and the same state. -/
def Obligations.AllButStepAreIdempotent : Prop :=
  ∀ (c : Command) (s t : State), decode c ≠ .command .step → performCommand c s = .next t →
    performCommand c (takeResponse t) = .next t

/-- 40_bitwidth R40, 10_state R10: the commands of the Bit-Width Unit and MAP neither read nor write STATE, and SEED,
STEP and READS neither read nor write NCFG and BCFG. -/
def Obligations.GeneratorAndConfigurationAreIndependent : Prop :=
  (∀ (i : Instr) (s t : State) (v : Word), (∃ n, i = .bwidth n ∨ i = .setn n ∨ i = .map n) ∨ i = .readc →
    exec i s = .next t → exec i { s with state := v } = .next { t with state := v }) ∧
  (∀ (i : Instr) (s t : State) (n : Count) (b : Width), (∃ v, i = .seed v) ∨ i = .step ∨ i = .reads →
    exec i s = .next t → exec i { s with ncfg := n, bcfg := b } = .next { t with ncfg := n, bcfg := b })

/-- 60_exceptions R68: READS and READC show every register: two states after a reset with the same responses to both
agree in STATE, NCFG, BCFG and ERRS. -/
def Obligations.RegistersAreObservable : Prop :=
  ∀ s u s1 u1 s2 u2 : State, Inv s → Inv u →
    exec .reads s = .next s1 → exec .reads u = .next u1 → s1.port = u1.port →
    exec .readc s = .next s2 → exec .readc u = .next u2 → s2.port = u2.port →
    s.state = u.state ∧ s.ncfg = u.ncfg ∧ s.bcfg = u.bcfg ∧ s.errs = u.errs
end

