-- ==== Sys2Proof/Laws/Decode.lean ====
section
/-! SUPPORT. The fields of a command word, and what the decoder can answer. -/

namespace Sys2Proof

/-- The bits of a command word. -/
theorem commandOf_getLsbD (op : Opcode) (arg : Word) (i : Nat) :
    (commandOf op arg).getLsbD i = if i < 64 then arg.getLsbD i else op.getLsbD (i - 64) :=
  BitVec.getLsbD_append

@[simp] theorem opOf_commandOf (op : Opcode) (arg : Word) : opOf (commandOf op arg) = op := by
  apply BitVec.eq_of_getLsbD_eq
  intro i hi
  simp [opOf, commandOf_getLsbD, hi]

@[simp] theorem argOf_commandOf (op : Opcode) (arg : Word) : argOf (commandOf op arg) = arg := by
  apply BitVec.eq_of_getLsbD_eq
  intro i hi
  simp [argOf, commandOf_getLsbD, hi]

/-- A command word is its two fields. -/
theorem commandOf_opOf_argOf (c : Command) : commandOf (opOf c) (argOf c) = c := by
  apply BitVec.eq_of_getLsbD_eq
  intro i hi
  rw [commandOf_getLsbD]
  by_cases h : i < 64
  · simp [argOf, h]
  · have h1 : i - 64 < 8 := by omega
    have h2 : 64 + (i - 64) = i := by omega
    simp [opOf, h, h1, h2]

/-- Everything the decoder can answer with a command: the op, and the argument where the command takes one. -/
theorem decode_command_cases {c : Command} {i : Instr} (h : decode c = .command i) :
    (opOf c = 0x10#8 ∧ i = .bwidth (argOf c)) ∨ (opOf c = 0x11#8 ∧ i = .setn (argOf c)) ∨
    (opOf c = 0x12#8 ∧ i = .readc) ∨ (opOf c = 0x20#8 ∧ i = .seed (argOf c)) ∨
    (opOf c = 0x21#8 ∧ i = .step) ∨ (opOf c = 0x22#8 ∧ i = .reads) ∨
    (opOf c = 0x30#8 ∧ i = .map (argOf c)) ∨ (opOf c = 0x31#8 ∧ i = .sample) := by
  unfold decode at h
  split_ifs at h <;> simp_all

/-- A word answered as reserved carries its own op, which is none of the eight. -/
theorem decode_reserved_iff {c : Command} {op : Opcode} :
    decode c = .reserved op ↔
      op = opOf c ∧ opOf c ∉ [0x10#8, 0x11#8, 0x12#8, 0x20#8, 0x21#8, 0x22#8, 0x30#8, 0x31#8] := by
  unfold decode
  split_ifs <;> simp_all [eq_comm]

/-- A table word of 72 bits is the command with those bits. -/
@[simp] theorem commandOfNumber_toNat (c : Command) : commandOfNumber 72 c.toNat = c := by
  have h : c.toNat % 2 ^ 72 = c.toNat := Nat.mod_eq_of_lt c.isLt
  rw [commandOfNumber, h, BitVec.ofNat_toNat, BitVec.setWidth_eq]

end Sys2Proof
end

