-- ==== Sys2Proof/Laws/State.lean ====
section
/-! SUPPORT. One lemma per field per update of State. -/

namespace Sys2Proof.Machine

variable (s : State)

@[simp] theorem State.withState_state (v : Word) : (s.withState v).state = v := rfl
@[simp] theorem State.withState_ncfg (v : Word) : (s.withState v).ncfg = s.ncfg := rfl
@[simp] theorem State.withState_bcfg (v : Word) : (s.withState v).bcfg = s.bcfg := rfl
@[simp] theorem State.withState_errs (v : Word) : (s.withState v).errs = s.errs := rfl
@[simp] theorem State.withState_port (v : Word) : (s.withState v).port = s.port := rfl
@[simp] theorem State.withState_pins (v : Word) : (s.withState v).pins = s.pins := rfl

@[simp] theorem State.withConfig_state (n : Count) (b : Width) : (s.withConfig n b).state = s.state := rfl
@[simp] theorem State.withConfig_ncfg (n : Count) (b : Width) : (s.withConfig n b).ncfg = n := rfl
@[simp] theorem State.withConfig_bcfg (n : Count) (b : Width) : (s.withConfig n b).bcfg = b := rfl
@[simp] theorem State.withConfig_errs (n : Count) (b : Width) : (s.withConfig n b).errs = s.errs := rfl
@[simp] theorem State.withConfig_port (n : Count) (b : Width) : (s.withConfig n b).port = s.port := rfl
@[simp] theorem State.withConfig_pins (n : Count) (b : Width) : (s.withConfig n b).pins = s.pins := rfl

@[simp] theorem State.withErrs_state (e : ErrorRecord) : (s.withErrs e).state = s.state := rfl
@[simp] theorem State.withErrs_ncfg (e : ErrorRecord) : (s.withErrs e).ncfg = s.ncfg := rfl
@[simp] theorem State.withErrs_bcfg (e : ErrorRecord) : (s.withErrs e).bcfg = s.bcfg := rfl
@[simp] theorem State.withErrs_errs (e : ErrorRecord) : (s.withErrs e).errs = e := rfl
@[simp] theorem State.withErrs_port (e : ErrorRecord) : (s.withErrs e).port = s.port := rfl
@[simp] theorem State.withErrs_pins (e : ErrorRecord) : (s.withErrs e).pins = s.pins := rfl

@[simp] theorem State.withPort_state (p : Port) : (s.withPort p).state = s.state := rfl
@[simp] theorem State.withPort_ncfg (p : Port) : (s.withPort p).ncfg = s.ncfg := rfl
@[simp] theorem State.withPort_bcfg (p : Port) : (s.withPort p).bcfg = s.bcfg := rfl
@[simp] theorem State.withPort_errs (p : Port) : (s.withPort p).errs = s.errs := rfl
@[simp] theorem State.withPort_port (p : Port) : (s.withPort p).port = p := rfl
@[simp] theorem State.withPort_pins (p : Port) : (s.withPort p).pins = s.pins := rfl

@[simp] theorem State.withPins_state (ps : List Pins) : (s.withPins ps).state = s.state := rfl
@[simp] theorem State.withPins_ncfg (ps : List Pins) : (s.withPins ps).ncfg = s.ncfg := rfl
@[simp] theorem State.withPins_bcfg (ps : List Pins) : (s.withPins ps).bcfg = s.bcfg := rfl
@[simp] theorem State.withPins_errs (ps : List Pins) : (s.withPins ps).errs = s.errs := rfl
@[simp] theorem State.withPins_port (ps : List Pins) : (s.withPins ps).port = s.port := rfl
@[simp] theorem State.withPins_pins (ps : List Pins) : (s.withPins ps).pins = ps := rfl

@[simp] theorem State.reset_state : State.reset.state = 0#64 := rfl
@[simp] theorem State.reset_ncfg : State.reset.ncfg = 0#32 := rfl
@[simp] theorem State.reset_bcfg : State.reset.bcfg = 0#5 := rfl
@[simp] theorem State.reset_errs : State.reset.errs = 0#8 := rfl
@[simp] theorem State.reset_port : State.reset.port = .idle := rfl
@[simp] theorem State.reset_pins : State.reset.pins = [] := rfl

end Sys2Proof.Machine
end

