-- ==== Sys2Proof/Laws/Ops.lean ====
section
/-! SUPPORT. What each shared operation can do, said once. -/

namespace Sys2Proof.Machine

section Answering

variable (r : Response) (c : Cause) (s t : State)

@[simp] theorem answer_state : (answer r s).state = s.state := rfl
@[simp] theorem answer_ncfg : (answer r s).ncfg = s.ncfg := rfl
@[simp] theorem answer_bcfg : (answer r s).bcfg = s.bcfg := rfl
@[simp] theorem answer_errs : (answer r s).errs = s.errs := rfl
@[simp] theorem answer_port : (answer r s).port = .answering r := rfl
@[simp] theorem answer_pins : (answer r s).pins = s.pins := rfl

@[simp] theorem reject_state : (reject c s).state = s.state := rfl
@[simp] theorem reject_ncfg : (reject c s).ncfg = s.ncfg := rfl
@[simp] theorem reject_bcfg : (reject c s).bcfg = s.bcfg := rfl
@[simp] theorem reject_errs : (reject c s).errs = recordError c s.errs := rfl
@[simp] theorem reject_port :
    (reject c s).port = .answering { status := causeCode c, result := 0#64 } := rfl
@[simp] theorem reject_pins : (reject c s).pins = s.pins := rfl

/-- An accepted command is answered with status OK and its result, and with nothing else. -/
theorem respond_next_iff (result : Word) :
    respond result s = .next t ↔ t = answer { status := statusOk, result := result } s := by
  simp [respond, eq_comm]

/-- A raised rejection gives the state after its entry. -/
theorem raise_next_iff : raise c s = .next t ↔ t = reject c s := by
  simp [raise, eq_comm]

/-- A guarded command is rejected for its first cause, or has its effect. -/
theorem guarded_next_cases {check : Option Cause} {effect : Result} {s t : State}
    (h : guarded check s effect = .next t) :
    (∃ c, check = some c ∧ t = reject c s) ∨ (check = none ∧ effect = .next t) := by
  cases check with
  | none => exact .inr ⟨rfl, h⟩
  | some c => exact .inl ⟨c, rfl, (raise_next_iff c s t).mp h⟩

@[simp] theorem guarded_some (effect : Result) : guarded (some c) s effect = raise c s := rfl
@[simp] theorem guarded_none (effect : Result) : guarded none s effect = effect := rfl

end Answering

section PortOps

variable (c : Command) (s : State)

@[simp] theorem takeResponse_state : (takeResponse s).state = s.state := rfl
@[simp] theorem takeResponse_ncfg : (takeResponse s).ncfg = s.ncfg := rfl
@[simp] theorem takeResponse_bcfg : (takeResponse s).bcfg = s.bcfg := rfl
@[simp] theorem takeResponse_errs : (takeResponse s).errs = s.errs := rfl
@[simp] theorem takeResponse_port : (takeResponse s).port = .idle := rfl
@[simp] theorem takeResponse_pins : (takeResponse s).pins = s.pins := rfl

@[simp] theorem acceptCommand_state : (acceptCommand c s).state = s.state := rfl
@[simp] theorem acceptCommand_ncfg : (acceptCommand c s).ncfg = s.ncfg := rfl
@[simp] theorem acceptCommand_bcfg : (acceptCommand c s).bcfg = s.bcfg := rfl
@[simp] theorem acceptCommand_errs : (acceptCommand c s).errs = s.errs := rfl
@[simp] theorem acceptCommand_port : (acceptCommand c s).port = .busy c (waitOf c s) := rfl
@[simp] theorem acceptCommand_pins : (acceptCommand c s).pins = s.pins := rfl

@[simp] theorem consumePins_state : (consumePins s).state = s.state := rfl
@[simp] theorem consumePins_ncfg : (consumePins s).ncfg = s.ncfg := rfl
@[simp] theorem consumePins_bcfg : (consumePins s).bcfg = s.bcfg := rfl
@[simp] theorem consumePins_errs : (consumePins s).errs = s.errs := rfl
@[simp] theorem consumePins_port : (consumePins s).port = s.port := rfl
@[simp] theorem consumePins_pins : (consumePins s).pins = s.pins.tail := rfl

@[simp] theorem resetEdge_state : (resetEdge s).state = 0#64 := rfl
@[simp] theorem resetEdge_ncfg : (resetEdge s).ncfg = 0#32 := rfl
@[simp] theorem resetEdge_bcfg : (resetEdge s).bcfg = 0#5 := rfl
@[simp] theorem resetEdge_errs : (resetEdge s).errs = 0#8 := rfl
@[simp] theorem resetEdge_port : (resetEdge s).port = .idle := rfl
@[simp] theorem resetEdge_pins : (resetEdge s).pins = s.pins := rfl

end PortOps

/-- ERRS as it reads: bits 1 to 6 of the record, the others 0. -/
theorem errorsRead_getLsbD (e : ErrorRecord) (i : Nat) :
    (errorsRead e).getLsbD i = (decide (1 ≤ i ∧ i ≤ 6) && e.getLsbD i) := by
  by_cases h : i < 8
  · interval_cases i <;> simp [errorsRead]
  · simp [errorsRead, BitVec.getLsbD_of_ge _ _ (Nat.le_of_not_lt h)]

/-- The fields of the word READC reads. -/
theorem configWord_getLsbD (s : State) (i : Nat) :
    (configWord s).getLsbD i =
      if i < 32 then s.ncfg.getLsbD i
      else if i < 37 then s.bcfg.getLsbD (i - 32)
      else if i < 40 then false
      else if i < 48 then (errorsRead s.errs).getLsbD (i - 40)
      else false := by
  have e : (configWord s).getLsbD i =
      BitVec.getLsbD (w := 16 + 8 + 3 + 5 + 32) (0#16 ++ errorsRead s.errs ++ 0#3 ++ s.bcfg ++ s.ncfg) i := rfl
  rw [e]
  simp only [BitVec.getLsbD_append, BitVec.getLsbD_zero]
  split_ifs <;> first | rfl | omega

/-- The bucket count of an argument is its low half. -/
theorem countOf_toNat (n : Word) : (countOf n).toNat = n.toNat % 2 ^ 32 := by
  simp [countOf]

/-- The conditions of BWIDTH and SETN, in plain arithmetic. -/
theorem countCheck_eq (n : Word) :
    countCheck n = if 2 ^ 32 ≤ n.toNat then some .argRange else if n.toNat = 0 then some .zeroN else none := by
  have h1 : (n.extractLsb' 32 32 = 0#32) ↔ ¬ 2 ^ 32 ≤ n.toNat := by
    rw [← BitVec.toNat_inj]
    simp only [BitVec.extractLsb'_toNat, BitVec.toNat_ofNat, Nat.shiftRight_eq_div_pow]
    have := n.isLt
    omega
  have h2 : (n = 0#64) ↔ n.toNat = 0 := by
    rw [← BitVec.toNat_inj]; simp
  unfold countCheck
  by_cases h : 2 ^ 32 ≤ n.toNat <;> simp [h1, h2]

/-- A command that a condition turns away ends in that rejection. -/
theorem exec_of_rejection {i : Instr} {s : State} {c : Cause} (h : rejectionOf i s = some c) :
    exec i s = raise c s := by
  cases i <;> simp_all [rejectionOf, exec, execBwidth, execSetn, execSeed, execStep, execMap, execSample]

/-- Everything `exec` can do: each command is rejected for its cause, or answers OK with its result and
writes its own registers and no other. -/
theorem exec_next_cases {i : Instr} {s t : State} (h : exec i s = .next t) :
    (∃ c, rejectionOf i s = some c ∧ t = reject c s) ∨
    (rejectionOf i s = none ∧
      ((∃ n, i = .bwidth n ∧ t = answer { status := statusOk, result := (bitWidth (countOf n)).setWidth 64 } s) ∨
       (∃ n, i = .setn n ∧ t = answer { status := statusOk, result := (bitWidth (countOf n)).setWidth 64 }
          (s.withConfig (countOf n) (bitWidth (countOf n)))) ∨
       (i = .readc ∧ t = answer { status := statusOk, result := configWord s } s) ∨
       (∃ v, i = .seed v ∧ t = answer { status := statusOk, result := v } (s.withState v)) ∨
       (i = .step ∧ t = answer { status := statusOk, result := lfsrNext s.state } (s.withState (lfsrNext s.state))) ∨
       (i = .reads ∧ t = answer { status := statusOk, result := s.state } s) ∨
       (∃ k, i = .map k ∧
          t = answer { status := statusOk, result := (bucketIndex k s.bcfg s.ncfg).setWidth 64 } s) ∨
       (i = .sample ∧
          t = answer { status := statusOk, result := (bucketIndex s.state s.bcfg s.ncfg).setWidth 64 } s))) := by
  cases hr : rejectionOf i s with
  | some c =>
    rw [exec_of_rejection hr, raise_next_iff] at h
    exact .inl ⟨c, rfl, h⟩
  | none =>
    refine .inr ⟨rfl, ?_⟩
    cases i <;>
      simp_all [rejectionOf, exec, execBwidth, execSetn, execReadc, execSeed, execStep, execReads, execMap,
        execSample, respond_next_iff]

/-- A guarded response always gives a next state with a response on the port. -/
theorem guarded_respond_completes (check : Option Cause) (s u : State) (result : Word) :
    ∃ t r, guarded check s (respond result u) = .next t ∧ t.port = .answering r := by
  cases check with
  | none => exact ⟨_, _, rfl, rfl⟩
  | some c => exact ⟨_, _, rfl, rfl⟩

/-- A guarded response does not depend on the port's control state or on the inputs, but to keep the inputs. -/
theorem guarded_respond_port_pins (check : Option Cause) {s u t : State} (result : Word)
    (h : guarded check s (respond result u) = .next t) (p : Port) (ps : List Pins) :
    guarded check ((s.withPort p).withPins ps) (respond result ((u.withPort p).withPins ps)) =
      .next (t.withPins ps) := by
  cases check with
  | none => cases h; rfl
  | some c => cases h; rfl

/-- A command performed gives a next state with its response on the port. -/
theorem performCommand_completes (c : Command) (s : State) :
    ∃ t r, performCommand c s = .next t ∧ t.port = .answering r := by
  unfold performCommand
  split
  · rename_i i _
    cases i with
    | bwidth n => exact guarded_respond_completes _ s _ _
    | setn n => exact guarded_respond_completes _ s _ _
    | readc => exact guarded_respond_completes none s _ _
    | seed v => exact guarded_respond_completes _ s _ _
    | step => exact guarded_respond_completes _ s _ _
    | reads => exact guarded_respond_completes none s _ _
    | map k => exact guarded_respond_completes _ s _ _
    | sample => exact guarded_respond_completes _ s _ _
  · exact ⟨_, _, rfl, rfl⟩

/-- What a command does depends on the registers alone; the inputs are kept. -/
theorem performCommand_port_pins {c : Command} {s t : State} (h : performCommand c s = .next t)
    (p : Port) (ps : List Pins) :
    performCommand c ((s.withPort p).withPins ps) = .next (t.withPins ps) := by
  unfold performCommand at h ⊢
  split at h
  · rename_i i _
    cases i with
    | bwidth n => exact guarded_respond_port_pins (countCheck n) _ h p ps
    | setn n => exact guarded_respond_port_pins (countCheck n) _ h p ps
    | readc => exact guarded_respond_port_pins none (s := s) (u := s) _ h p ps
    | seed v => exact guarded_respond_port_pins (seedCheck v) _ h p ps
    | step => exact guarded_respond_port_pins (seededCheck s) _ h p ps
    | reads => exact guarded_respond_port_pins none (s := s) (u := s) _ h p ps
    | map k => exact guarded_respond_port_pins (configuredCheck s) _ h p ps
    | sample => exact guarded_respond_port_pins (sampleCheck s) _ h p ps
  · cases h; rfl

/-- What an edge with `rst` = 0 does, by the control state of the port. -/
theorem runEdge_unreset (p : Pins) {s : State} (h : s.port = .unreset) :
    runEdge p s = if p.cmdValid then .refused .commandBeforeReset else .next s := by
  simp [runEdge, h]

@[inherit_doc runEdge_unreset]
theorem runEdge_idle (p : Pins) {s : State} (h : s.port = .idle) :
    runEdge p s = if p.cmdValid then .next (acceptCommand (offeredCommand p) s) else .next s := by
  simp [runEdge, h]

@[inherit_doc runEdge_unreset]
theorem runEdge_waiting (p : Pins) {s : State} {c : Command} {k : Nat} (h : s.port = .busy c (k + 1)) :
    runEdge p s = .next (s.withPort (.busy c k)) := by
  simp [runEdge, h]

@[inherit_doc runEdge_unreset]
theorem runEdge_performing (p : Pins) {s : State} {c : Command} (h : s.port = .busy c 0) :
    runEdge p s = performCommand c s := by
  simp [runEdge, h]

@[inherit_doc runEdge_unreset]
theorem runEdge_answering (p : Pins) {s : State} {r : Response} (h : s.port = .answering r) :
    runEdge p s = if p.rspReady then .next (takeResponse s) else .next s := by
  simp [runEdge, h]

/-- Everything one rising edge can do. -/
theorem clockEdge_cases (s : State) :
    ((pinsNow s).rst = true ∧ clockEdge s = .next (resetEdge (consumePins s))) ∨
    ((pinsNow s).rst = false ∧ clockEdge s = runEdge (pinsNow s) (consumePins s)) := by
  unfold clockEdge
  cases h : (pinsNow s).rst <;> simp

end Sys2Proof.Machine
end

