-- ==== Sys2Proof/Laws/PerInstr.lean ====
section
/-! SUPPORT. A statement about each command as syntax, one lemma per constructor. -/

namespace Sys2Proof.Laws.OpcodeTable

/-- The command's opcode is one of the eight of 30_encoding R28, and only the four commands that read an
argument write one into the `arg` field (R30, R33). -/
def Statement (i : Instr) : Prop :=
  i.opcode ∈ [0x10#8, 0x11#8, 0x12#8, 0x20#8, 0x21#8, 0x22#8, 0x30#8, 0x31#8] ∧
  (i.argField ≠ 0#64 → i.opcode ∈ [0x10#8, 0x11#8, 0x20#8, 0x30#8])

theorem bwidth (n : Word) : Statement (.bwidth n) := by simp [Statement, Instr.opcode]
theorem setn (n : Word) : Statement (.setn n) := by simp [Statement, Instr.opcode]
theorem readc : Statement .readc := by simp [Statement, Instr.opcode, Instr.argField]
theorem seed (value : Word) : Statement (.seed value) := by simp [Statement, Instr.opcode]
theorem step : Statement .step := by simp [Statement, Instr.opcode, Instr.argField]
theorem reads : Statement .reads := by simp [Statement, Instr.opcode, Instr.argField]
theorem map (key : Word) : Statement (.map key) := by simp [Statement, Instr.opcode]
theorem sample : Statement .sample := by simp [Statement, Instr.opcode, Instr.argField]

end Sys2Proof.Laws.OpcodeTable
end

