-- ==== Sys2Proof/Laws/Runs.lean ====
section
/-! SUPPORT. What a transaction and a run of edges can do. -/

namespace Sys2Proof.Machine

/-- Everything a transaction can do: it starts from an idle block, performs the command, and leaves the block
idle with the response taken. -/
theorem transact_eq_some_iff {c : Command} {s u : State} {r : Response} :
    transact c s = some (r, u) ↔
      s.port = .idle ∧ ∃ t, performCommand c s = .next t ∧ t.port = .answering r ∧ u = takeResponse t := by
  obtain ⟨t, q, h1, h2⟩ := performCommand_completes c s
  unfold transact
  split
  · simp [completed, eq_comm, *]
  all_goals simp [*]

/-- A block that is not idle has no transaction. -/
theorem transact_of_not_idle (c : Command) {s : State} (h : s.port ≠ .idle) : transact c s = none := by
  unfold transact
  split <;> simp_all

/-- One more edge at the end of a run. -/
theorem steps_snoc {k : Nat} {s t u : State} (h : steps k s = some t) (hu : step t = .next u) :
    steps (k + 1) s = some u := by
  induction k generalizing s with
  | zero => cases h; simp [steps, hu]
  | succ k ih =>
    rw [steps] at h ⊢
    split at h
    · exact ih h
    · cases h
    · cases h

/-- A placed command is accepted by a block that has been reset. -/
theorem placeCommand_of_reset (c : Command) {s : State} (h : s.port ≠ .unreset) :
    placeCommand c s = placeAccepted c s := by
  unfold placeCommand
  split <;> simp_all

/-- A placed command is offered to a block that has not been reset. -/
theorem placeCommand_of_unreset (c : Command) {s : State} (h : s.port = .unreset) :
    placeCommand c s = s.withPins (Pins.offer c :: s.pins) := by
  simp [placeCommand, h]

end Sys2Proof.Machine
end

