-- ==== Sys2Proof/Laws/Units.lean ====
section
/-! SUPPORT. Small lemmas of the functions of the three units. -/

namespace Sys2Proof.Machine

/-- The scan answers an index below its start, whose bit is 1 and above which every bit is 0. -/
theorem topBit_some {n : Count} {k i : Nat} (h : topBit n k = some i) :
    i < k ∧ n.getLsbD i = true ∧ ∀ j, i < j → j < k → n.getLsbD j = false := by
  induction k with
  | zero => cases h
  | succ k ih =>
    unfold topBit at h
    split at h
    · cases h
      exact ⟨Nat.lt_succ_self _, ‹_›, fun j h1 h2 => absurd h2 (by omega)⟩
    · obtain ⟨h1, h2, h3⟩ := ih h
      refine ⟨by omega, h2, fun j hj hk => ?_⟩
      by_cases hjk : j = k
      · subst hjk; exact Bool.eq_false_iff.mpr (by assumption)
      · exact h3 j hj (by omega)

/-- The scan answers nothing only where every bit it looks at is 0. -/
theorem topBit_none {n : Count} {k : Nat} (h : topBit n k = none) : ∀ j, j < k → n.getLsbD j = false := by
  induction k with
  | zero => intro j hj; omega
  | succ k ih =>
    unfold topBit at h
    split at h
    · cases h
    · intro j hj
      by_cases hjk : j = k
      · subst hjk; exact Bool.eq_false_iff.mpr (by assumption)
      · exact ih h j (by omega)

/-- Where the bare function has a value, the command uses it. -/
theorem bitWidth_of_some {n : Count} {b : Width} (h : bitWidth? n = some b) : bitWidth n = b := by
  simp [bitWidth, h]

/-- Where the bare function has a value, the command uses it. -/
theorem bucketIndex_of_some {key : Word} {b : Width} {n r : Count} (h : bucketIndex? key b n = some r) :
    bucketIndex key b n = r := by
  simp [bucketIndex, h]

/-- The mask of k bits is 2^k − 1. -/
theorem maskOf_toNat {k : Nat} (hk : k ≤ 63) : (maskOf k).toNat = 2 ^ k - 1 := by
  have h1 : 2 ^ k < 2 ^ 64 := Nat.pow_lt_pow_right (by omega) (by omega)
  have h2 : 1 ≤ 2 ^ k := Nat.one_le_two_pow
  unfold maskOf
  rw [BitVec.toNat_sub, BitVec.toNat_shiftLeft]
  simp only [BitVec.toNat_ofNat, Nat.one_mod_eq_one.mpr (by norm_num : 2 ^ 64 ≠ 1), Nat.one_shiftLeft,
    Nat.mod_eq_of_lt h1]
  have h4 : 2 ^ 64 - 1 + 2 ^ k = 2 ^ 64 + (2 ^ k - 1) := by omega
  rw [h4, Nat.add_mod_left, Nat.mod_eq_of_lt (by omega)]

/-- The mask of k bits keeps a word's value modulo 2^k. -/
theorem and_maskOf_toNat (x : Word) {k : Nat} (hk : k ≤ 63) : (x &&& maskOf k).toNat = x.toNat % 2 ^ k := by
  rw [BitVec.toNat_and, maskOf_toNat hk, Nat.and_two_pow_sub_one_eq_mod]

/-- `low_wide` in plain arithmetic. -/
theorem lowWide_toNat (key : Word) (b : Width) : (lowWide key b).toNat = key.toNat % 2 ^ (b.toNat + 1) :=
  and_maskOf_toNat key (Nat.succ_le_succ (Nat.le_trans (Nat.le_of_lt_succ b.isLt) (by norm_num)))

/-- `low_shifted` in plain arithmetic. -/
theorem lowShifted_toNat (key : Word) (b : Width) :
    (lowShifted key b).toNat = key.toNat / 2 ^ (b.toNat + 1) % 2 ^ b.toNat := by
  rw [lowShifted, and_maskOf_toNat _ (Nat.le_trans (Nat.le_of_lt_succ b.isLt) (by norm_num)),
    BitVec.toNat_ushiftRight, Nat.shiftRight_eq_div_pow]

/-- The feedback bit is the exclusive-or of the four taps. -/
theorem feedback_getLsbD (s : Word) :
    (feedback s).getLsbD 0 = (s.getLsbD 0 ^^ s.getLsbD 3 ^^ s.getLsbD 30 ^^ s.getLsbD 55) := by
  simp only [feedback, BitVec.getLsbD_xor, BitVec.getLsbD_extractLsb']
  simp

/-- `lfsr_next` bit 63 is the feedback bit, and every other bit is the one above it. -/
theorem lfsrNext_getLsbD (s : Word) {i : Nat} (hi : i < 64) :
    (lfsrNext s).getLsbD i = if i = 63 then (feedback s).getLsbD 0 else s.getLsbD (i + 1) := by
  unfold lfsrNext
  rw [BitVec.getLsbD_append]
  by_cases h : i = 63
  · subst h; simp
  · have h1 : i < 63 := by omega
    simp [h, h1, Nat.add_comm]

/-- Steps compose. -/
theorem lfsrIter_add (j k : Nat) (s : Word) : lfsrIter (j + k) s = lfsrIter k (lfsrIter j s) := by
  induction j generalizing s with
  | zero => simp [lfsrIter]
  | succ j ih => rw [Nat.succ_add]; exact ih (lfsrNext s)

/-- The generator is linear over exclusive-or. -/
theorem lfsrNext_xor (s t : Word) : lfsrNext (s ^^^ t) = lfsrNext s ^^^ lfsrNext t := by
  apply BitVec.eq_of_getLsbD_eq
  intro i hi
  rw [BitVec.getLsbD_xor, lfsrNext_getLsbD _ hi, lfsrNext_getLsbD _ hi, lfsrNext_getLsbD _ hi]
  split
  · simp only [feedback, BitVec.getLsbD_xor, BitVec.getLsbD_extractLsb']
    simp only [Nat.lt_one_iff, decide_true, Bool.true_and, Bool.xor_assoc, Bool.xor_left_comm]
  · simp

end Sys2Proof.Machine
end

