-- ==== Sys2Proof/Tests/Slice0.lean ====
section
/-! SUPPORT. Tests. Expected values are those of spec/95_test_vectors.md (the section is named), or words written
out from spec/30_encoding.md R24 and R28. The witnesses at the end show a concrete state and operands that meet the
hypotheses of each statement that has some. -/

namespace Sys2Proof.Tests

open Sys2Proof Sys2Proof.Machine

/-- An idle block with these registers and a quiet host. -/
def block (state : Word) (ncfg : Count) (bcfg : Width) (errs : ErrorRecord) : State :=
  { state := state, ncfg := ncfg, bcfg := bcfg, errs := errs, port := .idle, pins := [] }

/-- The block after a command: its registers and its response. -/
def after (state : Word) (ncfg : Count) (bcfg : Width) (errs : ErrorRecord) (status : StatusCode) (result : Word) :
    Option State :=
  some { block state ncfg bcfg errs with port := .answering { status := status, result := result } }

/-- The next state of an outcome. -/
def nextOf : Result → Option State
  | .next t => some t
  | .fault _ => none
  | .refused _ => none

/-! ## WellFormed: an ill-formed line for each check -/

theorem test_wf_refuses_missing_operand :
    ({ mnemonic := .setn, operand := none } : AsmLine).operandPresent = false ∧
    ({ mnemonic := .readc, operand := some 0 } : AsmLine).operandPresent = false := by decide

theorem test_wf_refuses_wide_operand :
    ({ mnemonic := .seed, operand := some (2 ^ 64) } : AsmLine).operandFits = false ∧
    ({ mnemonic := .seed, operand := some (2 ^ 64 - 1) } : AsmLine).wf = true := by decide

/-! ## Decoding: each command's word, written out from 30_encoding R24 and R28 -/

theorem test_decode_bwidth : decode 0x100000000000000078#72 = .command (.bwidth 120#64) := by decide
theorem test_decode_setn : decode 0x110000000100000078#72 = .command (.setn 0x100000078#64) := by decide
theorem test_decode_readc : decode 0x12000000000000ABCD#72 = .command .readc := by decide
theorem test_decode_seed : decode 0x20DEADBEEFCAFEBABE#72 = .command (.seed 0xDEADBEEFCAFEBABE#64) := by decide
theorem test_decode_step : decode 0x21000000000000FFFF#72 = .command .step := by decide
theorem test_decode_reads : decode 0x220000000000000000#72 = .command .reads := by decide
theorem test_decode_map : decode 0x300000000000001F7D#72 = .command (.map 0x1F7D#64) := by decide
theorem test_decode_sample : decode 0x310000000000000000#72 = .command .sample := by decide

/-- 95_test_vectors 2.4: reserved ops beside the groups. -/
theorem test_decode_reserved :
    decode 0x000000000000000000#72 = .reserved 0x00#8 ∧ decode 0x130000000000000078#72 = .reserved 0x13#8 ∧
    decode 0x230000000000000000#72 = .reserved 0x23#8 ∧ decode 0x320000000000000000#72 = .reserved 0x32#8 ∧
    decode 0xFF0000000000001234#72 = .reserved 0xFF#8 := by decide

/-- The table's numbering: SETN 120 is 0x11_0000000000000078 (30_encoding R33). -/
theorem test_decode_table_word :
    decodeTableWord 72 0x110000000000000078 = some (.setn 120#64) ∧ decodeTableWord 72 0x78 = none := by decide

/-! ## The commands, on the vectors of 95_test_vectors section 2 -/

/-- 2.1. -/
theorem test_bwidth :
    nextOf (exec (.bwidth 0xFFFFFFFF#64) (block 0 0 0 0)) = after 0 0 0 0 0 31 ∧
    nextOf (exec (.bwidth 0x100000000#64) (block 0 0 0 0)) = after 0 0 0 0x04 2 0 := by decide

/-- 2.1. -/
theorem test_setn :
    nextOf (exec (.setn 120#64) (block 0 0 0 0)) = after 0 0x78 6 0 0 6 ∧
    nextOf (exec (.setn 0#64) (block 0 1000 9 0)) = after 0 1000 9 0x08 3 0 := by decide

/-- 2.1. -/
theorem test_readc :
    nextOf (exec .readc (block 0 0xFFFFFFFF 31 0x7E)) = after 0 0xFFFFFFFF 31 0x7E 0 0x00007E1FFFFFFFFF := by decide

/-- 2.2. -/
theorem test_seed :
    nextOf (exec (.seed 0x8000000000000000#64) (block 0 0 0 0)) =
      after 0x8000000000000000 0 0 0 0 0x8000000000000000 ∧
    nextOf (exec (.seed 0#64) (block 0x1234 0 0 0)) = after 0x1234 0 0 0x10 4 0 := by decide

/-- 2.2. -/
theorem test_step :
    nextOf (exec .step (block 1 0 0 0)) = after 0x8000000000000000 0 0 0 0 0x8000000000000000 ∧
    nextOf (exec .step (block 0 0 0 0)) = after 0 0 0 0x20 5 0 := by decide

/-- 2.2. -/
theorem test_reads :
    nextOf (exec .reads (block 0xDEADBEEFCAFEBABE 0 0 0)) =
      after 0xDEADBEEFCAFEBABE 0 0 0 0 0xDEADBEEFCAFEBABE := by decide

/-- 2.3. -/
theorem test_map :
    nextOf (exec (.map 0x1F7D#64) (block 0 120 6 0)) = after 0 120 6 0 0 62 ∧
    nextOf (exec (.map 5#64) (block 0 0 0 0)) = after 0 0 0 0x40 6 0 := by decide

/-- 2.3. -/
theorem test_sample :
    nextOf (exec .sample (block 0x0123456789ABCDEF 120 6 0)) = after 0x0123456789ABCDEF 120 6 0 0 111 ∧
    nextOf (exec .sample (block 0 0 0 0)) = after 0 0 0 0x20 5 0 := by decide

/-! ## The functions -/

/-- 2.1, the ends of the table. -/
theorem test_bitWidth :
    [1#32, 2#32, 7#32, 119#32, 128#32, 0x7FFFFFFF#32, 0x80000000#32].map bitWidth? =
      [some 0, some 1, some 2, some 6, some 7, some 30, some 31] := by decide

/-- 2.1: the reference loop runs 32 times for 2^32 − 1, and acc ends at 2^32. -/
theorem test_referenceLoop :
    referenceLoop 0xFFFFFFFF#32 = (32, 0x100000000#33) ∧ referenceLoop 120#32 = (7, 128#33) := by decide

/-- 2.2. -/
theorem test_lfsrNext :
    [0x0123456789ABCDEF#64, 0x40000000#64, 0x0080000000000000#64, 0x0080000040000009#64,
      0xDEADBEEFCAFEBABE#64].map lfsrNext =
    [0x0091A2B3C4D5E6F7#64, 0x8000000020000000#64, 0x8040000000000000#64, 0x0040000020000004#64,
      0xEF56DF77E57F5D5F#64] := by decide

/-- 2.2: 10 steps from seed 1, and 12 from the seed of program P4. -/
theorem test_lfsrIter :
    lfsrIter 10 1#64 = 0x8040000000000000#64 ∧ lfsrIter 12 0x0123456789ABCDEF#64 = 0xDCE0123456789ABC#64 := by decide

/-- 2.3: B = 31, N = 1, and a power of two. -/
theorem test_bucketIndex :
    bucketIndex? 0x12345678FFFFFFFF#64 31#5 0xFFFFFFFF#32 = some 305419896#32 ∧
    bucketIndex? 0x380000000#64 31#5 0x80000000#32 = some 3#32 ∧
    bucketIndex? 0xFFFFFFFFFFFFFFFF#64 0#5 1#32 = some 0#32 ∧
    bucketIndex? 0x1D#64 2#5 4#32 = some 3#32 := by decide

/-- 40_bitwidth R36, and assumption 8 at 0. -/
theorem test_bitWidthRef : bitWidthRef? 120#32 = some 6 ∧ bitWidthRef? 0#32 = none := by decide

/-- U4: the source's step refuses 0. -/
theorem test_lfsrStep : lfsrStep? 0#64 = none ∧ lfsrStep? 1#64 = some 0x8000000000000000#64 := by decide

/-! ## The port -/

/-- 30_encoding R26: status in bits [67:64]. -/
theorem test_packResponse : packResponse { status := 5, result := 7 } = 0x50000000000000007#68 := by decide

/-- 70_reset R70, R71: an edge with rst = 1 discards a response and clears ERRS (95_test_vectors 2.4). -/
theorem test_reset_edge :
    nextOf (step { block 5 120 6 0x7E with
      port := .answering { status := 0, result := 9 }, pins := [Pins.holdReset] }) = some (block 0 0 0 0) := by decide

/-- 95_test_vectors 2.4: op 0x13 is not treated as SETN. -/
theorem test_reserved_command :
    nextOf (step ((block 0 0 0 0).withFetchWord 72 0x130000000000000078)) = after 0 0 0 0x02 1 0 := by decide

/-- The first command after reset: SETN 120. -/
theorem test_first_command :
    nextOf (step (State.reset.withFetchWord 72 0x110000000000000078)) = after 0 0x78 6 0 0 6 := by decide

/-- 70_reset R72. -/
theorem test_before_reset :
    nextOf (step { State.powerOn 1 2 3 4 with pins := [Pins.offer 0x220000000000000000#72] }) = none := by decide

/-- 70_reset R72: a command placed in a block that was never reset, or issued to it, is refused. -/
theorem test_place_before_reset :
    nextOf (step ((State.powerOn 1 2 3 4).withFetchWord 72 0x220000000000000000)) = none ∧
    transact 0x220000000000000000#72 (State.powerOn 1 2 3 4) = none := by decide

/-- 95_test_vectors P5, as a transaction-level run. -/
theorem test_program_P5 :
    (session [0x1100000000000003E8#72, 0x100000000000000078#72, 0x110000000000000000#72, 0x110000000100000078#72,
      0x120000000000000000#72, 0x300123456789ABCDEF#72] State.reset).map (fun x => x.1.map Response.result) =
      some [9, 6, 0, 0, 0x00000C09000003E8, 495] := by decide

/-! ## Assembly -/

/-- 30_encoding R33, R34. -/
theorem test_assemble :
    assemble "SETN 1_000 ; buckets\n; nothing\n  ADVANCE 2\n\nMAP 0x1F_7D".toList =
      some [0x1100000000000003E8#72, 0x210000000000000000#72, 0x210000000000000000#72, 0x300000000000001F7D#72] := by
  decide

theorem test_assemble_refuses :
    assemble "SETN".toList = none ∧ assemble "READC 0".toList = none ∧ assemble "MAP 12_".toList = none ∧
    assemble "NOP".toList = none := by decide

/-- 30_encoding R33. -/
theorem test_print : printCommand 0x110000000000000078#72 = "0x11_0000000000000078".toList := by decide

/-! ## Witnesses: the hypotheses of the statements can be met -/

/-- A seeded, configured block. -/
def ready : State := block 0x0123456789ABCDEF 120 6 0

/-- A seeded, configured block about to perform a command. -/
def about (c : Command) : State := { ready with port := .busy c 0 }

theorem ready_inv : Inv ready :=
  ⟨⟨by decide, fun _ => by unfold IsBitWidth; decide⟩, ⟨by decide, by decide⟩, trivial⟩

theorem witness_DecodeEncodeRoundTrip :
    decode 0x110000000000000078#72 = .command (.setn 120) ∧ decode 0x12000000000000ABCD#72 = .command .readc := by
  decide

theorem witness_DecodeSelectsByOpcodeAlone :
    opOf 0x300000000000000001#72 = opOf 0x300000000000000002#72 ∧
    decode 0x300000000000000001#72 = .command (.map 1) := by decide

theorem witness_ReservedOpcodesRejected :
    (0x0F#8).toNat ≤ 0x0F ∧ 0x13 ≤ (0x13#8).toNat ∧ 0x23 ≤ (0x2F#8).toNat ∧ 0x32 ≤ (0xFF#8).toNat ∧
    decode (commandOf 0x1F#8 7#64) = .reserved 0x1F#8 := by decide

theorem witness_IgnoredArgumentHasNoEffect : 0x31#8 ∈ [0x12#8, 0x21#8, 0x22#8, 0x31#8] := by decide

theorem witness_AssembledLineIsOneCommand :
    ({ mnemonic := .map, operand := some (2 ^ 64 - 1) } : AsmLine).wf = true ∧
    ({ mnemonic := .map, operand := some (2 ^ 64) } : AsmLine).wf = false := by decide

theorem witness_AdvanceExpandsToSteps : ready.state ≠ 0#64 ∧ ready.port = .idle := by decide

theorem witness_BitWidthIsFloorLog2 :
    (1#32) ≠ 0#32 ∧ (0xFFFFFFFF#32) ≠ 0#32 ∧ (2 ^ 31 ≤ (0xFFFFFFFF#32).toNat ∧ (0xFFFFFFFF#32).toNat < 2 ^ (31 + 1)) := by
  decide

/-- Also for ReferenceLoopComputesBitWidth, SetnResultAndFrame and MapAfterSetnUsesNewPair. -/
theorem witness_BwidthResultAndFrame :
    2 ^ 32 ≤ (0x100000000#64).toNat ∧ (0#64).toNat = 0 ∧
    (1 ≤ (1#64).toNat ∧ (1#64).toNat < 2 ^ 32) ∧ (1 ≤ (0xFFFFFFFF#64).toNat ∧ (0xFFFFFFFF#64).toNat < 2 ^ 32) := by
  decide

/-- Also for LfsrIsInvertibleAndKeepsNonzero. -/
theorem witness_LfsrHasMaximalPeriod :
    (1#64 ≠ 0#64 ∧ 0xFFFFFFFFFFFFFFFF#64 ≠ 0#64) ∧ (0 < 1 ∧ 1 < 2 ^ 64 - 1) ∧ 2 ^ 64 - 2 < 2 ^ 64 - 1 := by decide

/-- Also for LfsrNextBitByBit and LfsrOutputObeysRecurrence, whose only hypotheses bound i. -/
theorem witness_LfsrCopiesBitsDown : (63 ≤ 63 ∧ 0 ≤ 63 - 63) ∧ (0 ≤ 63 ∧ 63 ≤ 63 - 0) := by decide

theorem witness_SeedResultAndFrame : (0#64 = 0#64) ∧ (0x8000000000000000#64 ≠ 0#64) := by decide

theorem witness_StepResultAndFrame : State.reset.state = 0#64 ∧ ready.state ≠ 0#64 := by decide

theorem witness_GeneratorIsDeterministic :
    ready.state ≠ 0#64 ∧
    (∀ c ∈ [encode .step, encode (.seed 0), encode .sample], ∀ v : Word, v ≠ 0#64 → decode c ≠ .command (.seed v)) ∧
    (session [encode .step, encode (.seed 0), encode .sample] ready).isSome := by
  have h1 : decode (encode .step) = .command .step := by decide
  have h2 : decode (encode (.seed 0)) = .command (.seed 0) := by decide
  have h3 : decode (encode .sample) = .command .sample := by decide
  refine ⟨by decide, ?_, by decide⟩
  intro c hc v hv
  simp only [List.mem_cons, List.not_mem_nil, or_false] at hc
  rcases hc with rfl | rfl | rfl
  · simp [h1]
  · rw [h2]; intro h; cases h; exact hv rfl
  · simp [h3]

/-- For BucketIndexValue and BucketIndexBelowCount: the contract at its edge, and outside it. -/
theorem witness_BucketIndexValue :
    (1 ≤ (0x80000000#32).toNat ∧ 2 ^ (31#5).toNat ≤ (0x80000000#32).toNat) ∧ (1#32).toNat < 2 ^ (1#5).toNat ∧
    (0#32).toNat < 2 ^ (0#5).toNat := by decide

theorem witness_OnlyLowKeyBitsMatter :
    ∀ i, i ≤ 2 * (31#5).toNat → (0#64).getLsbD i = (0x8000000000000000#64).getLsbD i := by decide

/-- Also for IndexDistribution. -/
theorem witness_FallbackCondition :
    ((4#32).toNat = 2 ^ (2#5).toNat ∧ (0x1D#64).getLsbD (2#5).toNat = true) ∧ IsBitWidth 120#32 6#5 := by
  unfold IsBitWidth; decide

theorem witness_MapResultAndFrame :
    State.reset.ncfg = 0#32 ∧ ready.ncfg ≠ 0#32 ∧ 2 ^ ready.bcfg.toNat ≤ ready.ncfg.toNat := by decide

theorem witness_SampleResultAndFrame :
    State.reset.state = 0#64 ∧ ((block 1 0 0 0).state ≠ 0#64 ∧ (block 1 0 0 0).ncfg = 0#32) ∧
    (ready.state ≠ 0#64 ∧ ready.ncfg ≠ 0#32 ∧ 2 ^ ready.bcfg.toNat ≤ ready.ncfg.toNat) := by decide

/-- A rejected and an accepted command. -/
theorem witness_RejectionIsPrecise :
    (transact (encode (.seed 0)) ready).map (fun x => x.1.status) = some 4#4 ∧
    (transact (encode .reads) ready).map (fun x => x.1.status) = some 0#4 := by decide

/-- A step for each of the statements about one step: ErrorRecordIsSticky (a rejected SEED 0, and a reset). -/
theorem witness_ErrorRecordIsSticky :
    ((nextOf (step (about (encode (.seed 0))))).map State.errs = some 0x10#8 ∧
      (pinsNow (about (encode (.seed 0)))).rst = false) ∧
    ((nextOf (step { ready with pins := [Pins.holdReset] })).isSome ∧
      (pinsNow { ready with pins := [Pins.holdReset] }).rst = true) := by decide

theorem witness_OnlySeedAndStepWriteState :
    (nextOf (step (about (encode .step)))).map State.state = some 0x0091A2B3C4D5E6F7#64 ∧
    (nextOf (step (about (encode (.seed 7))))).map State.state = some 7#64 ∧
    (pinsNow (about (encode .step))).rst = false := by decide

theorem witness_OnlySetnWritesConfiguration :
    (nextOf (step (about (encode (.setn 1000))))).map State.ncfg = some 1000#32 ∧
    (pinsNow (about (encode (.setn 1000)))).rst = false := by decide

theorem witness_SeededAndConfiguredPersist :
    (nextOf (step (about (encode .step)))).isSome ∧ (pinsNow (about (encode .step))).rst = false ∧
    (about (encode .step)).state ≠ 0#64 ∧ (about (encode .step)).ncfg ≠ 0#32 := by decide

theorem witness_EveryStepKeepsInvariant : Inv ready ∧ ∃ t, step ready = .next t :=
  ⟨ready_inv, _, rfl⟩

theorem witness_ResetEdgeResetsEverything :
    (pinsNow { State.powerOn 1 2 3 4 with pins := [Pins.holdReset] }).rst = true ∧ ready.port ≠ .unreset := by decide

theorem witness_IdleBlockKeepsItsRegisters :
    ready.port = .idle ∧ (pinsNow ready).rst = false ∧ (pinsNow ready).cmdValid = false := by decide

/-- A ready block to which a command is offered. -/
def offered (c : Command) : State := { ready with pins := [Pins.offer c] }

theorem witness_CommandAcceptedOnlyWhenIdle :
    ((offered (encode .reads)).port = .idle ∧ (pinsNow (offered (encode .reads))).rst = false ∧
      (pinsNow (offered (encode .reads))).cmdValid = true) ∧
    outputs ready false = some { cmdReady := true, rsp := none } ∧
    (nextOf (step { ready with port := .busy (encode .reads) 1 })).map State.port =
      some (.busy (encode .reads) 0) := by decide

theorem witness_ResponseHeldUntilTaken :
    (∃ r, ({ ready with port := .answering r } : State).port = .answering r) ∧
    (pinsNow ready).rspReady = false ∧ (pinsNow { ready with pins := [Pins.take] }).rspReady = true ∧
    (pinsNow { ready with pins := [Pins.take] }).rst = false :=
  ⟨⟨{ status := 0, result := 0 }, rfl⟩, by decide⟩

theorem witness_CommandBeforeResetIsRefused :
    (State.powerOn 1 2 3 4).port = .unreset ∧ (pinsNow { State.powerOn 1 2 3 4 with pins := [Pins.offer 0] }).rst = false ∧
    (pinsNow { State.powerOn 1 2 3 4 with pins := [Pins.offer 0] }).cmdValid = true ∧
    (pinsNow { State.powerOn 1 2 3 4 with pins := [Pins.holdReset] }).rst = true := by decide

theorem witness_LatencyIsBounded : decode (encode .sample) = .command .sample := by decide

theorem witness_LatencyIsDataIndependent :
    (Instr.map 1).opcode = (Instr.map 2).opcode ∧ (Instr.map 1).opcode ≠ 0x10#8 ∧ (Instr.map 1).opcode ≠ 0x11#8 ∧
    (nextOf (exec (.map 1) ready)).map State.port = some (.answering { status := 0, result := 1 }) ∧
    (nextOf (exec (.map 2) (block 0 5 2 0))).map State.port = some (.answering { status := 0, result := 2 }) := by
  decide

theorem witness_CommandAnsweredAfterItsLatency :
    (offered (encode .reads)).port = .idle ∧ (pinsNow (offered (encode .reads))).cmdValid = true ∧
    commandOf (pinsNow (offered (encode .reads))).cmdOp (pinsNow (offered (encode .reads))).cmdArg = encode .reads ∧
    ResetFree (latencyOf (encode .reads) (offered (encode .reads)) + 1) (offered (encode .reads)) := by
  refine ⟨by decide, by decide, by decide, fun p hp => ?_⟩
  have h := List.mem_of_mem_take hp
  simp only [offered, List.mem_singleton] at h
  subst h
  rfl

/-- A block waiting with quiet inputs performs its command when the wait is over. -/
theorem steps_of_waiting (c : Command) (t : State) (rest : List Pins) (j : Nat) :
    ∀ s : State, s.port = .busy c j → s.pins = List.replicate (j + 1) Pins.quiet ++ rest →
      performCommand c (s.withPins rest) = .next t → steps (j + 1) s = some t := by
  induction j with
  | zero =>
    intro s hp hs ht
    have hq : pinsNow s = Pins.quiet := by simp [pinsNow, hs]
    have hc : consumePins s = s.withPins rest := by simp [consumePins, hs]
    have h : step s = .next t := by
      rw [step, clockEdge, hq, if_neg (by decide), hc, runEdge_performing _ (by simpa using hp), ht]
    simp [steps, h]
  | succ j ih =>
    intro s hp hs ht
    have hq : pinsNow s = Pins.quiet := by simp [pinsNow, hs, List.replicate_succ]
    have h : step s = .next ((consumePins s).withPort (.busy c j)) := by
      rw [step, clockEdge, hq, if_neg (by decide), runEdge_waiting _ (by simpa using hp)]
    have h2 := performCommand_port_pins ht (.busy c j) rest
    have h3 := performCommand_port_pins ht s.port rest
    rw [steps, h]
    refine ih _ rfl (by simp [consumePins, hs, List.replicate_succ]) ?_
    have e : ((consumePins s).withPort (.busy c j)).withPins rest =
        ((s.withPins rest).withPort (.busy c j)).withPins rest := rfl
    have e2 : ((s.withPins rest).withPort s.port).withPins rest = s.withPins rest := rfl
    rw [e2, ht] at h3
    rw [e, h2, ← h3]

/-- A whole exchange from reset: the host offers READS, waits out its latency and takes the response. -/
def readsExchange : State :=
  State.reset.withPins
    (Pins.offer (encode .reads) ::
      (List.replicate (Config.readsWait + 1) Pins.quiet ++ [Pins.take]))

theorem witness_PortRefinesTransactions :
    readsExchange.port = .idle ∧ ResetFree (Config.readsWait + 3) readsExchange ∧
    ∃ t, steps (Config.readsWait + 3) readsExchange = some t ∧ t.port = .idle := by
  refine ⟨rfl, fun p hp => ?_, ?_⟩
  · have h := List.mem_of_mem_take hp
    simp only [readsExchange, State.withPins_pins, List.mem_cons, List.mem_append, List.mem_replicate,
      List.not_mem_nil, or_false] at h
    rcases h with rfl | ⟨-, rfl⟩ | rfl <;> rfl
  · have h1 : step readsExchange = .next ((consumePins readsExchange).withPort
        (.busy (encode .reads) Config.readsWait)) := by
      have hd : decode (encode .reads) = .command .reads := by decide
      have hw : waitOf (encode .reads) (consumePins readsExchange) = Config.readsWait := by
        simp [waitOf, hd, instrWait]
      have ho : offeredCommand (pinsNow readsExchange) = encode .reads := by decide
      rw [step, clockEdge, if_neg (by decide), runEdge_idle _ rfl, if_pos (by decide), ho, acceptCommand, hw]
    have h2 := steps_of_waiting (encode .reads)
      { State.reset with port := .answering { status := 0, result := 0 }, pins := [Pins.take] } [Pins.take]
      Config.readsWait ((consumePins readsExchange).withPort (.busy (encode .reads) Config.readsWait)) rfl rfl rfl
    refine ⟨State.reset, ?_, rfl⟩
    rw [steps, h1]
    exact steps_snoc h2 rfl

theorem witness_NoTerminalStateAfterReset : ready.port ≠ .unreset := by decide

theorem witness_StepRunsDecodedInstruction :
    (about (encode .step)).port = .busy (encode .step) 0 ∧ (pinsNow (about (encode .step))).rst = false ∧
    decode (encode .step) = .command .step ∧ decode 0#72 = .reserved 0#8 := by decide

theorem witness_SampleEqualsReadsThenMap : ready.state ≠ 0#64 ∧ ready.port = .idle := by decide

theorem witness_PlacedCommandRunsNext : ready.port ≠ .unreset ∧ (State.powerOn 1 2 3 4).port = .unreset := by decide

theorem witness_SessionAnswersEveryCommandInOrder :
    ready.port = .idle ∧ (session [encode .reads, 0#72] ready).isSome ∧ (State.powerOn 1 2 3 4).port ≠ .idle ∧
    (about 0).port ≠ .idle := by decide

theorem witness_MapAfterSetnUsesNewPair :
    1 ≤ (0xFFFFFFFF#64).toNat ∧ (0xFFFFFFFF#64).toNat < 2 ^ 32 ∧ ready.port = .idle := by decide

theorem witness_BootStepsInEitherOrder : 1 ≤ (1#64).toNat ∧ (1#64).toNat < 2 ^ 32 ∧ 1#64 ≠ 0#64 := by decide

theorem witness_AllButStepAreIdempotent :
    decode (encode (.seed 0)) ≠ .command .step ∧ (nextOf (performCommand (encode (.seed 0)) ready)).isSome := by
  decide

theorem witness_GeneratorAndConfigurationAreIndependent :
    (nextOf (exec (.setn 5) ready)).isSome ∧ (nextOf (exec .step ready)).isSome := by decide

theorem witness_RegistersAreObservable :
    Inv ready ∧ Inv { ready with pins := [Pins.take] } ∧
    (nextOf (exec .reads ready)).map State.port =
      (nextOf (exec .reads { ready with pins := [Pins.take] })).map State.port ∧
    (nextOf (exec .readc ready)).map State.port =
      (nextOf (exec .readc { ready with pins := [Pins.take] })).map State.port ∧
    (nextOf (exec .reads ready)).isSome ∧ (nextOf (exec .readc ready)).isSome :=
  ⟨ready_inv, ⟨ready_inv.config, ready_inv.errors, trivial⟩, by decide, by decide, by decide, by decide⟩

end Sys2Proof.Tests
end

/-! # What every step keeps: the statements of spec/10_state.md

Two inversions carry everything here: what an edge without reset can do (`RunEdge`), and what performing a
command can do (`Performed`). The registers change only at the edge that performs a command
(`RunEdge.keepsRegisters_or_performs`); each statement about one register is then a case split on `Performed`,
and the invariant is assembled from those statements. -/

namespace Sys2Proof.Machine

/-! ## What an edge can do -/

/-- What an edge with `rst` = 0 can do, with its guards (70_reset R72, R74, R75, R76). -/
inductive RunEdge (s t : State) : Prop
  /-- Nothing to do: no command is offered to a block that is idle or was never reset, or the response on the
  port is not taken. -/
  | quiet
      (hquiet : ((s.port = .unreset ∨ s.port = .idle) ∧ (pinsNow s).cmdValid = false) ∨
        ∃ r, s.port = .answering r ∧ (pinsNow s).rspReady = false)
      (ht : t = consumePins s)
  /-- An idle block accepts the command on the port. -/
  | accept (hport : s.port = .idle) (hvalid : (pinsNow s).cmdValid = true)
      (ht : t = acceptCommand (offeredCommand (pinsNow s)) (consumePins s))
  /-- One edge of the latency goes by. -/
  | wait (c : Command) (k : Nat) (hport : s.port = .busy c (k + 1))
      (ht : t = (consumePins s).withPort (.busy c k))
  /-- The command is performed and its response offered. -/
  | perform (c : Command) (hport : s.port = .busy c 0) (hperform : performCommand c (consumePins s) = .next t)
  /-- The response is taken. -/
  | take (r : Response) (hport : s.port = .answering r) (hready : (pinsNow s).rspReady = true)
      (ht : t = takeResponse (consumePins s))

/-- A step at which `rst` is asserted is a reset edge. -/
theorem eq_resetEdge_of_step {s t : State} (h : step s = .next t) (hrst : (pinsNow s).rst = true) :
    t = resetEdge (consumePins s) := by
  rw [step, clockEdge, if_pos hrst] at h
  cases h
  rfl

/-- A step without reset is one of the edges of `RunEdge`. -/
theorem runEdge_of_step {s t : State} (h : step s = .next t) (hrst : (pinsNow s).rst = false) :
    RunEdge s t := by
  have hrun : runEdge (pinsNow s) (consumePins s) = .next t := by
    simpa [step, clockEdge, hrst] using h
  cases hport : s.port with
  | unreset =>
    rw [runEdge_unreset _ (by simpa using hport)] at hrun
    split_ifs at hrun with hvalid
    cases hrun
    exact .quiet (.inl ⟨.inl hport, by simpa using hvalid⟩) rfl
  | idle =>
    rw [runEdge_idle _ (by simpa using hport)] at hrun
    split_ifs at hrun with hvalid
    · cases hrun
      exact .accept hport hvalid rfl
    · cases hrun
      exact .quiet (.inl ⟨.inr hport, by simpa using hvalid⟩) rfl
  | busy c k =>
    cases k with
    | zero =>
      rw [runEdge_performing _ (by simpa using hport)] at hrun
      exact .perform c hport hrun
    | succ k =>
      rw [runEdge_waiting _ (by simpa using hport)] at hrun
      cases hrun
      exact .wait c k hport rfl
  | answering r =>
    rw [runEdge_answering _ (by simpa using hport)] at hrun
    split_ifs at hrun with hready
    · cases hrun
      exact .take r hport hready rfl
    · cases hrun
      exact .quiet (.inr ⟨r, hport, by simpa using hready⟩) rfl

/-- The four registers of 10_state R10 to R14 hold the same values. -/
structure SameRegisters (s t : State) : Prop where
  state : t.state = s.state
  ncfg : t.ncfg = s.ncfg
  bcfg : t.bcfg = s.bcfg
  errs : t.errs = s.errs

/-- Without a reset, registers change only at the edge that performs a command (70_reset R74, R76). -/
theorem RunEdge.keepsRegisters_or_performs {s t : State} (h : RunEdge s t) :
    SameRegisters s t ∨ ∃ c, s.port = .busy c 0 ∧ performCommand c (consumePins s) = .next t := by
  cases h with
  | quiet _ ht => subst ht; exact .inl ⟨rfl, rfl, rfl, rfl⟩
  | accept _ _ ht => subst ht; exact .inl ⟨rfl, rfl, rfl, rfl⟩
  | wait _ _ _ ht => subst ht; exact .inl ⟨rfl, rfl, rfl, rfl⟩
  | perform c hport hperform => exact .inr ⟨c, hport, hperform⟩
  | take _ _ _ ht => subst ht; exact .inl ⟨rfl, rfl, rfl, rfl⟩

/-! ## What performing a command can do -/

/-- What performing a command can do to the registers, by which of them it writes (10_state R10 to R14). -/
inductive Performed (c : Command) (s t : State) : Prop
  /-- The word is rejected: only ERRS is written. -/
  | rejected (cause : Cause)
      (hcause : (∃ op, decode c = .reserved op ∧ cause = .illegalOp) ∨
        ∃ i, decode c = .command i ∧ rejectionOf i s = some cause)
      (ht : t = reject cause s)
  /-- BWIDTH, READC, READS, MAP or SAMPLE is accepted: no register is written. -/
  | read (i : Instr) (result : Word) (hdecode : decode c = .command i) (haccepted : rejectionOf i s = none)
      (ht : t = answer { status := statusOk, result := result } s)
  /-- SETN is accepted. -/
  | configure (n : Word) (hdecode : decode c = .command (.setn n)) (haccepted : countCheck n = none)
      (ht : t = answer { status := statusOk, result := (bitWidth (countOf n)).setWidth 64 }
        (s.withConfig (countOf n) (bitWidth (countOf n))))
  /-- SEED is accepted. -/
  | seed (v : Word) (hdecode : decode c = .command (.seed v)) (haccepted : seedCheck v = none)
      (ht : t = answer { status := statusOk, result := v } (s.withState v))
  /-- STEP is accepted. -/
  | advance (hdecode : decode c = .command .step) (haccepted : seededCheck s = none)
      (ht : t = answer { status := statusOk, result := lfsrNext s.state } (s.withState (lfsrNext s.state)))

theorem performCommand_of_command {c : Command} {i : Instr} (hdecode : decode c = .command i) (s : State) :
    performCommand c s = exec i s := by
  simp [performCommand, hdecode]

theorem performCommand_of_reserved {c : Command} {op : Opcode} (hdecode : decode c = .reserved op) (s : State) :
    performCommand c s = raise .illegalOp s := by
  simp [performCommand, hdecode]

/-- Performing a command word is one of the cases of `Performed`. -/
theorem performed_of_performCommand {c : Command} {s t : State} (h : performCommand c s = .next t) :
    Performed c s t := by
  cases hdecode : decode c with
  | reserved op =>
    rw [performCommand_of_reserved hdecode, raise_next_iff] at h
    exact .rejected .illegalOp (.inl ⟨op, hdecode, rfl⟩) h
  | command i =>
    rw [performCommand_of_command hdecode] at h
    obtain ⟨cause, hcause, ht⟩ | ⟨haccepted, heffect⟩ := exec_next_cases h
    · exact .rejected cause (.inr ⟨i, hdecode, hcause⟩) ht
    · obtain ⟨n, rfl, ht⟩ | ⟨n, rfl, ht⟩ | ⟨rfl, ht⟩ | ⟨v, rfl, ht⟩ | ⟨rfl, ht⟩ | ⟨rfl, ht⟩ | ⟨k, rfl, ht⟩ |
        ⟨rfl, ht⟩ := heffect
      · exact .read _ _ hdecode haccepted ht
      · exact .configure n hdecode haccepted ht
      · exact .read _ _ hdecode haccepted ht
      · exact .seed v hdecode haccepted ht
      · exact .advance hdecode haccepted ht
      · exact .read _ _ hdecode haccepted ht
      · exact .read _ _ hdecode haccepted ht
      · exact .read _ _ hdecode haccepted ht

/-! ## The conditions and values the cases speak of -/

theorem seedCheck_eq_none_iff {v : Word} : seedCheck v = none ↔ v ≠ 0#64 := by
  simp [seedCheck]

theorem seededCheck_eq_none_iff {s : State} : seededCheck s = none ↔ s.state ≠ 0#64 := by
  simp [seededCheck]

theorem countCheck_eq_none_iff {n : Word} : countCheck n = none ↔ 1 ≤ n.toNat ∧ n.toNat < 2 ^ 32 := by
  rw [countCheck_eq]
  split_ifs with hrange hzero
  · exact ⟨nofun, fun _ => by omega⟩
  · exact ⟨nofun, fun _ => by omega⟩
  · exact ⟨fun _ => by omega, fun _ => rfl⟩

theorem countOf_eq_setWidth (n : Word) : countOf n = n.setWidth 32 := by
  apply BitVec.eq_of_toNat_eq
  rw [countOf_toNat, BitVec.toNat_setWidth]

/-- An accepted count is nonzero as a 32-bit count. -/
theorem countOf_ne_zero {n : Word} (hlow : 1 ≤ n.toNat) (hhigh : n.toNat < 2 ^ 32) : countOf n ≠ 0#32 := by
  intro hzero
  have h : n.toNat % 2 ^ 32 = 0 := by rw [← countOf_toNat, hzero]; rfl
  rw [Nat.mod_eq_of_lt hhigh] at h
  omega

theorem causeCode_bounds (cause : Cause) : 1 ≤ (causeCode cause).toNat ∧ (causeCode cause).toNat ≤ 6 := by
  cases cause <;> decide

/-- Setting one of bits 1 to 6 leaves the two hardwired bits of ERRS 0 (10_state R14). -/
theorem getLsbD_or_bit_of_hardwired {e : ErrorRecord} {c : Nat} (hlow : 1 ≤ c) (hhigh : c ≤ 6)
    (h0 : e.getLsbD 0 = false) (h7 : e.getLsbD 7 = false) :
    (e ||| (1#8 <<< c)).getLsbD 0 = false ∧ (e ||| (1#8 <<< c)).getLsbD 7 = false := by
  rw [BitVec.getLsbD_or, BitVec.getLsbD_or, h0, h7]
  interval_cases c <;> decide

/-- 2^B ≤ n leaves no room for n = 0. -/
theorem IsBitWidth.ne_zero {n : Count} {b : Width} (h : IsBitWidth n b) : n ≠ 0#32 := by
  rintro rfl
  exact absurd h.1 (Nat.not_le.mpr (Nat.two_pow_pos _))

/-- The index of the top 1 bit is the bit width (40_bitwidth R35). -/
theorem isBitWidth_of_topBit {n : Count} {i : Nat} (h : topBit n 32 = some i) :
    IsBitWidth n (BitVec.ofNat 5 i) := by
  obtain ⟨hlt, hset, habove⟩ := topBit_some h
  have hi : (BitVec.ofNat 5 i).toNat = i := Nat.mod_eq_of_lt hlt
  rw [IsBitWidth, hi]
  refine ⟨Nat.ge_two_pow_of_testBit hset, Nat.lt_pow_two_of_testBit _ fun j hj => ?_⟩
  by_cases hj32 : j < 32
  · exact habove j (by omega) hj32
  · exact BitVec.getLsbD_of_ge n j (by omega)

/-- What a command computes for a nonzero count is its bit width (40_bitwidth R35). -/
theorem isBitWidth_bitWidth {n : Count} (hn : n ≠ 0#32) : IsBitWidth n (bitWidth n) := by
  cases htop : topBit n 32 with
  | none =>
    refine absurd (BitVec.eq_of_getLsbD_eq fun i hi => ?_) hn
    rw [topBit_none htop i hi, BitVec.getLsbD_zero]
  | some i =>
    have hwidth : bitWidth n = BitVec.ofNat 5 i := bitWidth_of_some (by simp [bitWidth?, htop])
    exact hwidth ▸ isBitWidth_of_topBit htop

/-- 41_generator R44: no nonzero generator state leads to 0. Bits 1 to 63 reappear one place lower, and with
those 0 the feedback bit is bit 0. -/
theorem lfsrNext_ne_zero {x : Word} (hx : x ≠ 0#64) : lfsrNext x ≠ 0#64 := by
  intro hzero
  have hbit : ∀ i, i < 64 → (if i = 63 then (feedback x).getLsbD 0 else x.getLsbD (i + 1)) = false := by
    intro i hi
    rw [← lfsrNext_getLsbD x hi, hzero, BitVec.getLsbD_zero]
  have habove : ∀ j, 1 ≤ j → j < 64 → x.getLsbD j = false := by
    intro j hlow hhigh
    have h := hbit (j - 1) (by omega)
    rwa [if_neg (by omega), Nat.sub_add_cancel hlow] at h
  have hbottom : x.getLsbD 0 = false := by
    have h := hbit 63 (by omega)
    rw [if_pos rfl, feedback_getLsbD, habove 3 (by omega) (by omega), habove 30 (by omega) (by omega),
      habove 55 (by omega) (by omega)] at h
    simpa using h
  refine hx (BitVec.eq_of_getLsbD_eq fun i hi => ?_)
  rw [BitVec.getLsbD_zero]
  by_cases hi0 : i = 0
  · rw [hi0, hbottom]
  · exact habove i (by omega) hi

/-! ## The statements about single registers -/

/-- Settles O34: only a rejection writes ERRS, by its own cause's bit. -/
theorem errorRecordIsSticky : Obligations.ErrorRecordIsSticky := by
  intro s t h
  refine ⟨fun hrst => ?_, fun hrst => ?_⟩
  · rw [eq_resetEdge_of_step h hrst, resetEdge_errs]
  · obtain hsame | ⟨c, -, hperform⟩ := (runEdge_of_step h hrst).keepsRegisters_or_performs
    · exact .inl hsame.errs
    · cases performed_of_performCommand hperform with
      | rejected cause _ ht =>
        obtain ⟨hlow, hhigh⟩ := causeCode_bounds cause
        exact .inr ⟨_, hlow, hhigh, by rw [ht]; rfl⟩
      | read _ _ _ _ ht => exact .inl (by rw [ht]; rfl)
      | configure _ _ _ ht => exact .inl (by rw [ht]; rfl)
      | seed _ _ _ ht => exact .inl (by rw [ht]; rfl)
      | advance _ _ ht => exact .inl (by rw [ht]; rfl)

/-- Settles O35: of the cases of performing a command, only SEED and STEP write STATE. -/
theorem onlySeedAndStepWriteState : Obligations.OnlySeedAndStepWriteState := by
  intro s t h hrst hchanged
  obtain hsame | ⟨c, hport, hperform⟩ := (runEdge_of_step h hrst).keepsRegisters_or_performs
  · exact absurd hsame.state hchanged
  · refine ⟨c, hport, ?_⟩
    cases performed_of_performCommand hperform with
    | rejected _ _ ht => exact absurd (by rw [ht]; rfl) hchanged
    | read _ _ _ _ ht => exact absurd (by rw [ht]; rfl) hchanged
    | configure _ _ _ ht => exact absurd (by rw [ht]; rfl) hchanged
    | seed v hdecode haccepted ht =>
      exact .inl ⟨v, seedCheck_eq_none_iff.mp haccepted, hdecode, by rw [ht]; rfl⟩
    | advance hdecode haccepted ht =>
      exact .inr ⟨hdecode, seededCheck_eq_none_iff.mp haccepted, by rw [ht]; rfl⟩

/-- Settles O36: of the cases of performing a command, only SETN writes NCFG and BCFG, and it writes the bit
width of the count beside the count. -/
theorem onlySetnWritesConfiguration : Obligations.OnlySetnWritesConfiguration := by
  intro s t h hrst hchanged
  obtain hsame | ⟨c, hport, hperform⟩ := (runEdge_of_step h hrst).keepsRegisters_or_performs
  · exact absurd hchanged (by simp [hsame.ncfg, hsame.bcfg])
  · cases performed_of_performCommand hperform with
    | rejected _ _ ht => exact absurd hchanged (by simp [ht])
    | read _ _ _ _ ht => exact absurd hchanged (by simp [ht])
    | configure n hdecode haccepted ht =>
      obtain ⟨hlow, hhigh⟩ := countCheck_eq_none_iff.mp haccepted
      subst ht
      exact ⟨c, n, hport, hdecode, hlow, hhigh, countOf_eq_setWidth n,
        isBitWidth_bitWidth (countOf_ne_zero hlow hhigh)⟩
    | seed _ _ _ ht => exact absurd hchanged (by simp [ht])
    | advance _ _ ht => exact absurd hchanged (by simp [ht])

/-- Settles O37: the values that O35 and O36 let an edge write are nonzero. -/
theorem seededAndConfiguredPersist : Obligations.SeededAndConfiguredPersist := by
  intro s t h hrst
  refine ⟨fun hseeded => ?_, fun hconfigured => ?_⟩
  · by_cases hchanged : t.state = s.state
    · rwa [hchanged]
    · obtain ⟨c, -, ⟨v, hv, -, ht⟩ | ⟨-, -, ht⟩⟩ := onlySeedAndStepWriteState s t h hrst hchanged
      · rwa [ht]
      · rw [ht]
        exact lfsrNext_ne_zero hseeded
  · by_cases hchanged : t.ncfg = s.ncfg
    · rwa [hchanged]
    · obtain ⟨c, n, -, -, -, -, -, hwidth⟩ := onlySetnWritesConfiguration s t h hrst (.inl hchanged)
      exact hwidth.ne_zero

/-! ## The port: waits and responses -/

theorem instrWait_lt_latencyBound (i : Instr) (accepted : Bool) : instrWait i accepted < latencyBound i := by
  cases i with
  | bwidth | setn => exact Nat.lt_succ_of_le (Nat.min_le_right _ _)
  | readc | reads => exact Nat.lt_succ_self _
  | seed | step | map | sample =>
    cases accepted with
    | false => exact Nat.lt_succ_of_le (Nat.min_le_right _ _)
    | true => exact Nat.lt_succ_self _

theorem latencyBound_le_longestLatency (i : Instr) : latencyBound i ≤ longestLatency := by
  cases i <;> simp only [latencyBound, longestLatency, List.foldl] <;> omega

/-- 70_reset R80: the wait of any command word is below the largest latency bound. -/
theorem waitOf_lt_longestLatency (c : Command) (s : State) : waitOf c s < longestLatency := by
  have hpos : 0 < longestLatency := Nat.succ_pos _
  unfold waitOf
  split
  · exact Nat.lt_of_lt_of_le (instrWait_lt_latencyBound _ _) (latencyBound_le_longestLatency _)
  · omega

theorem legalResponse_ok (result : Word) : LegalResponse { status := statusOk, result := result } :=
  ⟨Nat.zero_le _, fun h => absurd rfl h⟩

theorem legalResponse_rejection (cause : Cause) :
    LegalResponse { status := causeCode cause, result := 0#64 } :=
  ⟨(causeCode_bounds cause).2, fun _ => rfl⟩

/-- 30_encoding R26, R27: performing a command puts a legal response on the port. -/
theorem Performed.legalPort {c : Command} {s t : State} (h : Performed c s t) : LegalPort t.port := by
  cases h with
  | rejected cause _ ht => subst ht; exact legalResponse_rejection cause
  | read _ _ _ _ ht => subst ht; exact legalResponse_ok _
  | configure _ _ _ ht => subst ht; exact legalResponse_ok _
  | seed _ _ _ ht => subst ht; exact legalResponse_ok _
  | advance _ _ ht => subst ht; exact legalResponse_ok _

theorem RunEdge.keeps_legalPort {s t : State} (h : RunEdge s t) (hs : LegalPort s.port) : LegalPort t.port := by
  cases h with
  | quiet _ ht => subst ht; exact hs
  | accept _ _ ht => subst ht; exact waitOf_lt_longestLatency _ _
  | wait c k hport ht =>
    rw [hport] at hs
    subst ht
    exact Nat.lt_of_succ_lt hs
  | perform c _ hperform => exact (performed_of_performCommand hperform).legalPort
  | take _ _ _ ht => subst ht; exact trivial

/-! ## The invariant -/

/-- The invariant speaks of no input, so the reset state meets it whatever the host has scheduled. -/
theorem inv_reset_withPins (ps : List Pins) : Inv (State.reset.withPins ps) :=
  ⟨⟨fun _ => rfl, fun h => absurd rfl h⟩, ⟨BitVec.getLsbD_zero, BitVec.getLsbD_zero⟩, trivial⟩

/-- Settles O38. -/
theorem resetStateMeetsInvariant : Obligations.ResetStateMeetsInvariant :=
  inv_reset_withPins []

/-- 10_state R13: the configuration stays consistent, since by O36 an edge writes both registers or neither. -/
theorem step_keeps_configConsistent {s t : State} (h : step s = .next t) (hrst : (pinsNow s).rst = false)
    (hs : ConfigConsistent s) : ConfigConsistent t := by
  by_cases hchanged : t.ncfg ≠ s.ncfg ∨ t.bcfg ≠ s.bcfg
  · obtain ⟨c, n, -, -, -, -, -, hwidth⟩ := onlySetnWritesConfiguration s t h hrst hchanged
    exact ⟨fun hzero => absurd hzero hwidth.ne_zero, fun _ => hwidth⟩
  · obtain ⟨hncfg, hbcfg⟩ : t.ncfg = s.ncfg ∧ t.bcfg = s.bcfg := by simpa using hchanged
    rwa [ConfigConsistent, hncfg, hbcfg]

/-- 10_state R14: the hardwired bits stay 0, since by O34 an edge sets none but bits 1 to 6. -/
theorem step_keeps_errorsHardwired {s t : State} (h : step s = .next t) (hrst : (pinsNow s).rst = false)
    (hs : ErrorsHardwired s) : ErrorsHardwired t := by
  obtain ⟨h0, h7⟩ := hs
  obtain hsame | ⟨c, hlow, hhigh, hset⟩ := (errorRecordIsSticky s t h).2 hrst
  · rw [ErrorsHardwired, hsame]
    exact ⟨h0, h7⟩
  · rw [ErrorsHardwired, hset]
    exact getLsbD_or_bit_of_hardwired hlow hhigh h0 h7

/-- Settles O39: a reset edge leads to the reset registers, and any other edge keeps each part of the invariant. -/
theorem everyStepKeepsInvariant : Obligations.EveryStepKeepsInvariant := by
  intro s t hs h
  cases hrst : (pinsNow s).rst with
  | true =>
    rw [eq_resetEdge_of_step h hrst]
    exact inv_reset_withPins _
  | false =>
    exact ⟨step_keeps_configConsistent h hrst hs.config, step_keeps_errorsHardwired h hrst hs.errors,
      (runEdge_of_step h hrst).keeps_legalPort hs.port⟩

end Sys2Proof.Machine


/-! # Transactions and the port: the statements of spec/20_memory.md

The transaction level first: one transaction, then a run of them (`session`) by induction on the commands. The
port refines it through `owedSession`, which reads a state in the middle of an exchange as the transactions
still owed to the host. Each edge keeps what is owed, but for the commands it accepts and the responses it
delivers (`owedSession_step`); the refinement is that lemma by induction on the edges. -/

namespace Sys2Proof.Machine

/-! ## One transaction and a run of them -/

/-- 30_encoding R26, R27: an idle block answers any command by a legal response and is idle again. -/
theorem transact_of_idle (c : Command) {s : State} (hidle : s.port = .idle) :
    ∃ r u, transact c s = some (r, u) ∧ u.port = .idle ∧ LegalResponse r := by
  obtain ⟨t, r, hperform, hport⟩ := performCommand_completes c s
  have hlegal : LegalPort t.port := (performed_of_performCommand hperform).legalPort
  rw [hport] at hlegal
  exact ⟨r, takeResponse t, transact_eq_some_iff.mpr ⟨hidle, t, hperform, hport, rfl⟩, rfl, hlegal⟩

/-- A run, with responses that came before it. -/
def afterResponses (rs : List Response) (run : Option (List Response × State)) :
    Option (List Response × State) :=
  run.map fun rest => (rs ++ rest.1, rest.2)

@[simp] theorem afterResponses_none (rs : List Response) : afterResponses rs none = none := rfl

@[simp] theorem afterResponses_some (rs qs : List Response) (t : State) :
    afterResponses rs (some (qs, t)) = some (rs ++ qs, t) := rfl

@[simp] theorem afterResponses_nil (run : Option (List Response × State)) : afterResponses [] run = run := by
  cases run <;> rfl

theorem afterResponses_append (rs qs : List Response) (run : Option (List Response × State)) :
    afterResponses (rs ++ qs) run = afterResponses rs (afterResponses qs run) := by
  cases run with
  | none => rfl
  | some rest => simp [afterResponses]

@[simp] theorem session_nil (s : State) : session [] s = some ([], s) := rfl

/-- A run begins with the transaction of its first command. -/
theorem session_cons_of_transact {c : Command} {s u : State} {r : Response} (h : transact c s = some (r, u))
    (cs : List Command) : session (c :: cs) s = afterResponses [r] (session cs u) := by
  rw [session, h]
  rfl

/-- A run whose first command has no transaction is none. -/
theorem session_cons_of_no_transact {c : Command} {s : State} (h : transact c s = none) (cs : List Command) :
    session (c :: cs) s = none := by
  rw [session, h]
  rfl

/-- A run that succeeds takes its first command's transaction and succeeds from there. -/
theorem session_cons_eq_some {c : Command} {cs : List Command} {s t : State} {rs : List Response}
    (h : session (c :: cs) s = some (rs, t)) :
    ∃ r u qs, transact c s = some (r, u) ∧ session cs u = some (qs, t) ∧ rs = r :: qs := by
  cases htransact : transact c s with
  | none =>
    rw [session_cons_of_no_transact htransact] at h
    cases h
  | some ru =>
    obtain ⟨r, u⟩ := ru
    rw [session_cons_of_transact htransact] at h
    cases hrest : session cs u with
    | none =>
      rw [hrest] at h
      cases h
    | some qt =>
      obtain ⟨qs, t'⟩ := qt
      rw [hrest] at h
      cases h
      exact ⟨r, u, qs, rfl, hrest, rfl⟩

/-- From an idle block every list of commands runs, with one legal response each, to an idle block. -/
theorem session_of_idle (cs : List Command) {s : State} (hidle : s.port = .idle) :
    ∃ rs t, session cs s = some (rs, t) ∧ t.port = .idle ∧ rs.length = cs.length ∧
      ∀ r ∈ rs, LegalResponse r := by
  induction cs generalizing s with
  | nil => exact ⟨[], s, rfl, hidle, rfl, nofun⟩
  | cons c cs ih =>
    obtain ⟨r, u, htransact, hu, hlegal⟩ := transact_of_idle c hidle
    obtain ⟨rs, t, hrun, ht, hlength, hrest⟩ := ih hu
    refine ⟨r :: rs, t, ?_, ht, congrArg (· + 1) hlength, List.forall_mem_cons.mpr ⟨hlegal, hrest⟩⟩
    rw [session_cons_of_transact htransact, hrun]
    rfl

/-- Running one list of commands after another is running their concatenation. -/
theorem session_append {cs : List Command} {s t : State} {rs : List Response} (h : session cs s = some (rs, t))
    (ds : List Command) : session (cs ++ ds) s = afterResponses rs (session ds t) := by
  induction cs generalizing s rs with
  | nil =>
    cases h
    rw [List.nil_append, afterResponses_nil]
  | cons c cs ih =>
    obtain ⟨r, u, qs, htransact, hrun, rfl⟩ := session_cons_eq_some h
    calc session (c :: (cs ++ ds)) s
        = afterResponses [r] (session (cs ++ ds) u) := session_cons_of_transact htransact _
      _ = afterResponses [r] (afterResponses qs (session ds t)) := by rw [ih hrun]
      _ = afterResponses (r :: qs) (session ds t) := (afterResponses_append [r] qs _).symm

/-- Settles O52. -/
theorem sessionAnswersEveryCommandInOrder : Obligations.SessionAnswersEveryCommandInOrder :=
  ⟨fun cs _ hidle => session_of_idle cs hidle,
    fun c cs _ hbusy => session_cons_of_no_transact (transact_of_not_idle c hbusy) cs,
    fun _ ds _ _ _ h => session_append h ds⟩

/-! ## The port refines the transaction level -/

/-- The block as the transaction level sees it: its registers, with an idle port and no inputs. -/
def settled (s : State) : State := (s.withPort .idle).withPins []

@[simp] theorem settled_consumePins (s : State) : settled (consumePins s) = settled s := rfl

@[simp] theorem settled_withPort (p : Port) (s : State) : settled (s.withPort p) = settled s := rfl

@[simp] theorem settled_acceptCommand (c : Command) (s : State) : settled (acceptCommand c s) = settled s := rfl

@[simp] theorem settled_takeResponse (s : State) : settled (takeResponse s) = settled s := rfl

theorem settled_of_idle {s : State} (hidle : s.port = .idle) : settled s = { s with pins := [] } := by
  cases s
  cases hidle
  rfl

/-- The edge that performs a command does to the registers what its transaction does. -/
theorem transact_settled_of_performCommand {c : Command} {s t : State} (h : performCommand c s = .next t) :
    ∃ r, t.port = .answering r ∧ transact c (settled s) = some (r, settled t) := by
  obtain ⟨t', r, ht', hport⟩ := performCommand_completes c s
  cases h.symm.trans ht'
  exact ⟨r, hport, transact_eq_some_iff.mpr ⟨rfl, t.withPins [], performCommand_port_pins h .idle [], hport, rfl⟩⟩

/-- The responses the host is still to take, and the state they leave, when `cs` are the commands yet to be
accepted: a command in flight comes before them, and a response on the port before theirs. -/
def owedSession (s : State) (cs : List Command) : Option (List Response × State) :=
  match s.port with
  | .unreset => none
  | .idle => session cs (settled s)
  | .busy c _ => session (c :: cs) (settled s)
  | .answering r => afterResponses [r] (session cs (settled s))

section Owed

variable {s : State} (cs : List Command)

theorem owedSession_of_idle (h : s.port = .idle) : owedSession s cs = session cs (settled s) := by
  simp [owedSession, h]

theorem owedSession_of_busy {c : Command} {k : Nat} (h : s.port = .busy c k) :
    owedSession s cs = session (c :: cs) (settled s) := by
  simp [owedSession, h]

theorem owedSession_of_answering {r : Response} (h : s.port = .answering r) :
    owedSession s cs = afterResponses [r] (session cs (settled s)) := by
  simp [owedSession, h]

/-- Consuming an input sample changes nothing that is owed. -/
theorem owedSession_consumePins : owedSession (consumePins s) cs = owedSession s cs := rfl

end Owed

/-- 70_reset R75 point 1: an idle block alone accepts a command. -/
theorem acceptedNow_of_not_idle {s : State} (h : s.port ≠ .idle) : acceptedNow s = [] := by
  unfold acceptedNow
  split <;> simp_all

/-- 70_reset R75 point 1: no command is accepted where none is offered. -/
theorem acceptedNow_of_not_valid {s : State} (h : (pinsNow s).cmdValid = false) : acceptedNow s = [] := by
  unfold acceptedNow
  split <;> simp [h]

theorem acceptedNow_of_valid {s : State} (hidle : s.port = .idle) (hrst : (pinsNow s).rst = false)
    (hvalid : (pinsNow s).cmdValid = true) : acceptedNow s = [offeredCommand (pinsNow s)] := by
  simp [acceptedNow, hidle, hrst, hvalid]

/-- 70_reset R75 point 4: a response is taken only while one is offered. -/
theorem deliveredNow_of_not_answering {s : State} (h : ∀ r, s.port ≠ .answering r) : deliveredNow s = [] := by
  unfold deliveredNow
  split <;> simp_all

/-- 70_reset R75 point 4: a response is held until the host is ready for it. -/
theorem deliveredNow_of_not_ready {s : State} (h : (pinsNow s).rspReady = false) : deliveredNow s = [] := by
  unfold deliveredNow
  split <;> simp [h]

theorem deliveredNow_of_ready {s : State} {r : Response} (hport : s.port = .answering r)
    (hrst : (pinsNow s).rst = false) (hready : (pinsNow s).rspReady = true) : deliveredNow s = [r] := by
  simp [deliveredNow, hport, hrst, hready]

/-- One edge keeps what is owed: a command it accepts moves from those to come into flight, and a response it
delivers moves from those owed to those taken. -/
theorem owedSession_step {s t : State} (h : step s = .next t) (hrst : (pinsNow s).rst = false)
    (cs : List Command) :
    owedSession s (acceptedNow s ++ cs) = afterResponses (deliveredNow s) (owedSession t cs) := by
  cases runEdge_of_step h hrst with
  | quiet hquiet ht =>
    obtain ⟨haccepted, hdelivered⟩ : acceptedNow s = [] ∧ deliveredNow s = [] := by
      obtain ⟨hport, hvalid⟩ | ⟨r, hport, hready⟩ := hquiet
      · refine ⟨acceptedNow_of_not_valid hvalid, deliveredNow_of_not_answering fun r hr => ?_⟩
        simp [hr] at hport
      · exact ⟨acceptedNow_of_not_idle (by simp [hport]), deliveredNow_of_not_ready hready⟩
    rw [haccepted, hdelivered, ht, owedSession_consumePins, List.nil_append, afterResponses_nil]
  | accept hport hvalid ht =>
    rw [acceptedNow_of_valid hport hrst hvalid, deliveredNow_of_not_answering (by simp [hport]),
      owedSession_of_idle _ hport, owedSession_of_busy cs (by rw [ht]; rfl), ht, afterResponses_nil,
      settled_acceptCommand, settled_consumePins, List.singleton_append]
  | wait c k hport ht =>
    rw [acceptedNow_of_not_idle (by simp [hport]), deliveredNow_of_not_answering (by simp [hport]),
      owedSession_of_busy _ hport, owedSession_of_busy cs (by rw [ht]; rfl), ht, afterResponses_nil,
      settled_withPort, settled_consumePins, List.nil_append]
  | perform c hport hperform =>
    obtain ⟨r, ht, htransact⟩ := transact_settled_of_performCommand hperform
    rw [settled_consumePins] at htransact
    rw [acceptedNow_of_not_idle (by simp [hport]), deliveredNow_of_not_answering (by simp [hport]),
      owedSession_of_busy _ hport, owedSession_of_answering cs ht, afterResponses_nil, List.nil_append,
      session_cons_of_transact htransact]
  | take r hport hready ht =>
    rw [acceptedNow_of_not_idle (by simp [hport]), deliveredNow_of_ready hport hrst hready,
      owedSession_of_answering _ hport, owedSession_of_idle cs (by rw [ht]; rfl), ht,
      settled_takeResponse, settled_consumePins, List.nil_append]

/-- A reset-free run of one edge or more asserts no reset at its first. -/
theorem ResetFree.head {k : Nat} {s : State} (h : ResetFree (k + 1) s) : (pinsNow s).rst = false := by
  cases hpins : s.pins with
  | nil => rw [pinsNow, hpins]; rfl
  | cons p ps =>
    rw [pinsNow, hpins]
    exact h p (by simp [hpins])

theorem performCommand_keeps_pins {c : Command} {s t : State} (h : performCommand c s = .next t) :
    t.pins = s.pins := by
  have hsame : performCommand c s = .next (t.withPins s.pins) := performCommand_port_pins h s.port s.pins
  have ht : t = t.withPins s.pins := Host.Outcome.next.inj (h.symm.trans hsame)
  rw [ht, State.withPins_pins]

/-- An edge without reset consumes one input sample and leaves the others. -/
theorem RunEdge.pins {s t : State} (h : RunEdge s t) : t.pins = s.pins.tail := by
  cases h with
  | quiet _ ht => rw [ht]; rfl
  | accept _ _ ht => rw [ht]; rfl
  | wait _ _ _ ht => rw [ht]; rfl
  | perform _ _ hperform => exact performCommand_keeps_pins hperform
  | take _ _ _ ht => rw [ht]; rfl

/-- What is left of a reset-free run after its first edge is reset-free. -/
theorem ResetFree.after_step {k : Nat} {s t : State} (h : ResetFree (k + 1) s) (hstep : step s = .next t) :
    ResetFree k t := by
  intro p hp
  rw [(runEdge_of_step hstep h.head).pins] at hp
  cases hpins : s.pins with
  | nil => simp [hpins] at hp
  | cons q ps =>
    rw [hpins, List.tail_cons] at hp
    exact h p (by simp [hpins, hp])

theorem steps_succ_eq_some {k : Nat} {s u : State} (h : steps (k + 1) s = some u) :
    ∃ t, step s = .next t ∧ steps k t = some u := by
  rw [steps] at h
  split at h
  · exact ⟨_, ‹_›, h⟩
  · cases h
  · cases h

theorem observe_of_step {s t : State} (h : step s = .next t) (k : Nat) :
    observe (k + 1) s = (acceptedNow s ++ (observe k t).1, deliveredNow s ++ (observe k t).2) := by
  rw [observe, h]

/-- From any state to an idle one, without a reset, what was owed at the start is what the host has taken. -/
theorem owedSession_observe {k : Nat} {s u : State} (hfree : ResetFree k s) (hrun : steps k s = some u)
    (hidle : u.port = .idle) :
    owedSession s (observe k s).1 = some ((observe k s).2, settled u) := by
  induction k generalizing s with
  | zero =>
    cases hrun
    exact owedSession_of_idle [] hidle
  | succ k ih =>
    obtain ⟨t, hstep, hrest⟩ := steps_succ_eq_some hrun
    rw [observe_of_step hstep, owedSession_step hstep hfree.head, ih (hfree.after_step hstep) hrest,
      afterResponses_some]

/-- Settles O48: nothing but the commands accepted is owed at an idle state. -/
theorem portRefinesTransactions : Obligations.PortRefinesTransactions := by
  intro k s t hs hfree hrun ht
  rw [← settled_of_idle hs, ← settled_of_idle ht, ← owedSession_of_idle _ hs]
  exact owedSession_observe hfree hrun ht

end Sys2Proof.Machine


/-! # Encoding and assembly: the statements of spec/30_encoding.md

What a word decodes to fixes the command's opcode and its `arg` field (`opcode_of_decode`, `argField_of_decode`),
and a word decodes to a command or is reserved by its op alone (`exists_decode_command_iff`,
`decode_commandOf_reserved_iff`): the statements about the decoder follow from these. The print form is read back
one digit at a time (`digitsValue_hexDigits`), and ADVANCE is an induction on its count over one STEP
(`transact_step_of_seeded`). -/

namespace Sys2Proof

/-! ## The decoder and the encoder -/

@[simp] theorem opOf_encode (i : Instr) : opOf (encode i) = i.opcode := opOf_commandOf _ _

@[simp] theorem argOf_encode (i : Instr) : argOf (encode i) = i.argField := argOf_commandOf _ _

theorem decode_encode (i : Instr) : decode (encode i) = .command i := by
  cases i <;> simp [decode, Instr.opcode, Instr.argField]

/-- The commands that ignore their argument, which `encode` writes as 0 (30_encoding R30, R33). -/
def Instr.IgnoresArgument (i : Instr) : Prop := i = .readc ∨ i = .step ∨ i = .reads ∨ i = .sample

/-- 30_encoding R28: a word decodes to a command of its own op. -/
theorem opcode_of_decode {c : Command} {i : Instr} (h : decode c = .command i) : i.opcode = opOf c := by
  obtain ⟨hop, rfl⟩ | ⟨hop, rfl⟩ | ⟨hop, rfl⟩ | ⟨hop, rfl⟩ | ⟨hop, rfl⟩ | ⟨hop, rfl⟩ | ⟨hop, rfl⟩ | ⟨hop, rfl⟩ :=
    decode_command_cases h
  all_goals exact hop.symm

/-- 30_encoding R30, R33: a command carries its word's argument, or ignores it and is written with 0. -/
theorem argField_of_decode {c : Command} {i : Instr} (h : decode c = .command i) :
    i.argField = argOf c ∨ (i.IgnoresArgument ∧ i.argField = 0#64) := by
  obtain ⟨-, rfl⟩ | ⟨-, rfl⟩ | ⟨-, rfl⟩ | ⟨-, rfl⟩ | ⟨-, rfl⟩ | ⟨-, rfl⟩ | ⟨-, rfl⟩ | ⟨-, rfl⟩ :=
    decode_command_cases h
  · exact .inl rfl
  · exact .inl rfl
  · exact .inr ⟨.inl rfl, rfl⟩
  · exact .inl rfl
  · exact .inr ⟨.inr (.inl rfl), rfl⟩
  · exact .inr ⟨.inr (.inr (.inl rfl)), rfl⟩
  · exact .inl rfl
  · exact .inr ⟨.inr (.inr (.inr rfl)), rfl⟩

/-- Settles O1: a word that decodes to a command and its encoding have one op, and one argument unless the command
ignores it. -/
theorem decodeEncodeRoundTrip : Obligations.DecodeEncodeRoundTrip := by
  refine ⟨fun i => ⟨decode_encode i, opOf_encode i, argOf_encode i⟩, fun c i h => ?_⟩
  rw [encode, opcode_of_decode h]
  obtain harg | ⟨hignores, harg⟩ := argField_of_decode h
  · rw [harg]
    exact .inl (commandOf_opOf_argOf c)
  · rw [harg]
    exact .inr ⟨hignores, rfl⟩

/-! ## Which ops are commands -/

theorem exists_decode_command_iff (c : Command) :
    (∃ i, decode c = .command i) ↔
      opOf c ∈ [0x10#8, 0x11#8, 0x12#8, 0x20#8, 0x21#8, 0x22#8, 0x30#8, 0x31#8] := by
  cases hdecode : decode c with
  | command i =>
    refine iff_of_true ⟨i, rfl⟩ (by_contra fun hop => ?_)
    have hreserved : decode c = .reserved (opOf c) := decode_reserved_iff.mpr ⟨rfl, hop⟩
    rw [hdecode] at hreserved
    cases hreserved
  | reserved op => exact iff_of_false nofun (decode_reserved_iff.mp hdecode).2

/-- Settles O3: the op alone says whether a word is a command, and of which opcode. -/
theorem decodeSelectsByOpcodeAlone : Obligations.DecodeSelectsByOpcodeAlone := by
  refine ⟨exists_decode_command_iff, fun c d i hop hc => ?_⟩
  obtain ⟨j, hd⟩ : ∃ j, decode d = .command j := by
    rw [exists_decode_command_iff, ← hop, ← exists_decode_command_iff]
    exact ⟨i, hc⟩
  exact ⟨j, hd, by rw [opcode_of_decode hd, opcode_of_decode hc, hop]⟩

/-- The ops that the table of 30_encoding R28 leaves free, as R31 lists them. -/
def ReservedOp (k : Nat) : Prop :=
  k ≤ 0x0F ∨ (0x13 ≤ k ∧ k ≤ 0x1F) ∨ (0x23 ≤ k ∧ k ≤ 0x2F) ∨ 0x32 ≤ k

theorem decode_commandOf_reserved_iff (op : Opcode) (arg : Word) :
    decode (commandOf op arg) = .reserved op ↔ ReservedOp op.toNat := by
  simp only [decode_reserved_iff, opOf_commandOf, true_and, List.mem_cons, List.not_mem_nil, or_false,
    ← BitVec.toNat_inj, BitVec.toNat_ofNat, ReservedOp]
  omega

end Sys2Proof

namespace Sys2Proof.Machine

/-- 60_exceptions R59, for ILLEGAL_OP: the rejection's entry, field by field. -/
theorem reject_illegalOp (s : State) : reject .illegalOp s = rejectedWith 1 s := rfl

/-- The numbers below a bound that meet a condition are counted by counting those that do not. -/
theorem length_filter_range_add_card_not (p : Nat → Prop) [DecidablePred p] (n : Nat) :
    ((List.range n).filter p).length + ((Finset.range n).filter (fun k => ¬ p k)).card = n := by
  rw [← List.countP_eq_length_filter, ← Nat.count, Nat.count_eq_card_filter_range,
    Finset.card_filter_add_card_filter_not, Finset.card_range]

/-- 30_encoding R31: of the 256 ops all but the eight of the table are reserved. -/
theorem length_filter_reserved :
    ((List.range 256).filter
      (fun k => decode (commandOf (BitVec.ofNat 8 k) 0#64) = .reserved (BitVec.ofNat 8 k))).length = 248 := by
  have htable : (Finset.range 256).filter
        (fun k => ¬ decode (commandOf (BitVec.ofNat 8 k) 0#64) = .reserved (BitVec.ofNat 8 k)) =
      {0x10, 0x11, 0x12, 0x20, 0x21, 0x22, 0x30, 0x31} := by
    ext k
    simp only [decode_commandOf_reserved_iff, ReservedOp, BitVec.toNat_ofNat, Finset.mem_filter,
      Finset.mem_range, Finset.mem_insert, Finset.mem_singleton]
    omega
  have hcount := length_filter_range_add_card_not
    (fun k => decode (commandOf (BitVec.ofNat 8 k) 0#64) = .reserved (BitVec.ofNat 8 k)) 256
  have height : ({0x10, 0x11, 0x12, 0x20, 0x21, 0x22, 0x30, 0x31} : Finset Nat).card = 8 := rfl
  rw [htable, height] at hcount
  exact Nat.add_right_cancel hcount

/-- Settles O4: the reserved ops are those of no command, and their words are rejected for ILLEGAL_OP. -/
theorem reservedOpcodesRejected : Obligations.ReservedOpcodesRejected := by
  refine ⟨fun op arg s hop => ?_, fun op arg => (decode_commandOf_reserved_iff op arg).mp, length_filter_reserved⟩
  have hdecode : decode (commandOf op arg) = .reserved op := (decode_commandOf_reserved_iff op arg).mpr hop
  refine ⟨hdecode, ?_⟩
  rw [performCommand_of_reserved hdecode, raise, reject_illegalOp]

/-- 30_encoding R30: an op whose command ignores the argument decodes to one command, whatever the argument. -/
theorem decode_commandOf_of_ignored {op : Opcode} (h : op ∈ [0x12#8, 0x21#8, 0x22#8, 0x31#8]) :
    ∃ i, ∀ arg, decode (commandOf op arg) = .command i := by
  simp only [List.mem_cons, List.not_mem_nil, or_false] at h
  obtain rfl | rfl | rfl | rfl := h
  · exact ⟨.readc, fun arg => by simp [decode]⟩
  · exact ⟨.step, fun arg => by simp [decode]⟩
  · exact ⟨.reads, fun arg => by simp [decode]⟩
  · exact ⟨.sample, fun arg => by simp [decode]⟩

theorem waitOf_of_command {c : Command} {i : Instr} (hdecode : decode c = .command i) (s : State) :
    waitOf c s = instrWait i (rejectionOf i s).isNone := by
  simp [waitOf, hdecode]

/-- Settles O5: effect and wait of a word are those of the command it decodes to. -/
theorem ignoredArgumentHasNoEffect : Obligations.IgnoredArgumentHasNoEffect := by
  intro op arg s hop
  obtain ⟨i, hdecode⟩ := decode_commandOf_of_ignored hop
  have hwait : waitOf (commandOf op arg) s = waitOf (commandOf op 0#64) s := by
    rw [waitOf_of_command (hdecode arg), waitOf_of_command (hdecode 0#64)]
  refine ⟨?_, ?_⟩
  · rw [performCommand_of_command (hdecode arg), performCommand_of_command (hdecode 0#64)]
  · rw [acceptCommand, hwait]
    rfl

/-! ## The print form -/

@[simp] theorem length_hexDigits (k n : Nat) : (hexDigits k n).length = k := by
  induction k generalizing n with
  | zero => rfl
  | succ k ih => simp [hexDigits, ih]

/-- A printed digit is no `_` and reads back to its value. -/
theorem hexDigit_hexChar {d : Nat} (h : d < 16) : hexChar d ≠ '_' ∧ hexDigit (hexChar d) = some d := by
  have hall : ∀ d < 16, hexChar d ≠ '_' ∧ hexDigit (hexChar d) = some d := by decide
  exact hall d h

section Digits

variable (base : Nat) (digit : Char → Option Nat) (cs : List Char) (acc : Nat)

/-- A `_` after a digit is skipped. -/
theorem digitsValue_underscore :
    digitsValue base digit ('_' :: cs) acc true = digitsValue base digit cs acc false := by
  simp [digitsValue]

theorem digitsValue_digit {c : Char} {d : Nat} (hc : c ≠ '_') (hd : digit c = some d) (after : Bool) :
    digitsValue base digit (c :: cs) acc after = digitsValue base digit cs (acc * base + d) true := by
  simp [digitsValue, hc, hd]

end Digits

/-- Reading the k + 1 printed digits of a number shifts it in below what was read before. -/
theorem digitsValue_hexDigits (k n : Nat) (cs : List Char) (acc : Nat) (after : Bool) :
    digitsValue 16 hexDigit (hexDigits (k + 1) n ++ cs) acc after =
      digitsValue 16 hexDigit cs (acc * 16 ^ (k + 1) + n % 16 ^ (k + 1)) true := by
  induction k generalizing n cs with
  | zero =>
    obtain ⟨hne, hvalue⟩ := hexDigit_hexChar (Nat.mod_lt n (by decide : 0 < 16))
    simpa [hexDigits] using digitsValue_digit 16 hexDigit cs acc hne hvalue after
  | succ k ih =>
    obtain ⟨hne, hvalue⟩ := hexDigit_hexChar (Nat.mod_lt n (by decide : 0 < 16))
    have hsplit : n % 16 ^ (k + 1 + 1) = n / 16 % 16 ^ (k + 1) * 16 + n % 16 := by
      rw [Nat.pow_succ' (n := k + 1), Nat.mod_mul, Nat.mul_comm 16, Nat.add_comm]
    calc digitsValue 16 hexDigit (hexDigits (k + 1 + 1) n ++ cs) acc after
        = digitsValue 16 hexDigit (hexDigits (k + 1) (n / 16) ++ hexChar (n % 16) :: cs) acc after := by
          rw [hexDigits, List.append_assoc, List.singleton_append]
      _ = digitsValue 16 hexDigit cs ((acc * 16 ^ (k + 1) + n / 16 % 16 ^ (k + 1)) * 16 + n % 16) true := by
          rw [ih, digitsValue_digit _ _ _ _ hne hvalue]
      _ = digitsValue 16 hexDigit cs (acc * 16 ^ (k + 1 + 1) + n % 16 ^ (k + 1 + 1)) true := by
          rw [hsplit, Nat.pow_succ 16 (k + 1)]
          congr 1
          ring

/-- 30_encoding R24: a command word as a number. -/
theorem toNat_eq_op_arg (c : Command) : c.toNat = (opOf c).toNat * 16 ^ 16 + (argOf c).toNat := by
  have happend : (commandOf (opOf c) (argOf c)).toNat = (opOf c).toNat <<< 64 ||| (argOf c).toNat :=
    BitVec.toNat_append _ _
  rw [commandOf_opOf_argOf, ← Nat.shiftLeft_add_eq_or_of_lt (argOf c).isLt, Nat.shiftLeft_eq] at happend
  exact happend

/-- Settles O6: two digits of op and sixteen of arg are read back in turn. -/
theorem printFormReadsBack : Obligations.PrintFormReadsBack := by
  intro c
  have hop : (opOf c).toNat % 16 ^ 2 = (opOf c).toNat := Nat.mod_eq_of_lt (opOf c).isLt
  have harg : (argOf c).toNat % 16 ^ 16 = (argOf c).toNat := Nat.mod_eq_of_lt (argOf c).isLt
  refine ⟨by simp [printCommand], ?_⟩
  calc numberOf (printCommand c)
      = digitsValue 16 hexDigit (hexDigits 2 (opOf c).toNat ++ '_' :: hexDigits 16 (argOf c).toNat) 0 false := rfl
    _ = digitsValue 16 hexDigit (hexDigits 16 (argOf c).toNat ++ []) (opOf c).toNat false := by
        rw [digitsValue_hexDigits, hop, digitsValue_underscore, List.append_nil, Nat.zero_mul, Nat.zero_add]
    _ = some c.toNat := by
        rw [digitsValue_hexDigits, harg, ← toNat_eq_op_arg]
        rfl

/-! ## Assembly lines -/

theorem expandLine_of_wf {l : AsmLine} (h : l.wf = true) :
    expandLine l = some (commandsOf l.mnemonic (l.operand.getD 0)) := by
  simp [expandLine, h]

theorem expandLine_of_not_wf {l : AsmLine} (h : l.wf = false) : expandLine l = none := by
  simp [expandLine, h]

/-- 30_encoding R33: a well-formed line that is no ADVANCE has an operand of 64 bits, or none where its mnemonic
takes none. -/
theorem operand_of_wf {l : AsmLine} (hwf : l.wf = true) (hm : l.mnemonic ≠ .advance) :
    l.operand.getD 0 < 2 ^ 64 ∧ (l.mnemonic.takesOperand = false → l.operand.getD 0 = 0) := by
  obtain ⟨m, operand⟩ := l
  cases operand with
  | none => exact ⟨Nat.two_pow_pos 64, fun _ => rfl⟩
  | some v =>
    obtain ⟨htakes, hfits⟩ : m.takesOperand = true ∧ v < 2 ^ 64 := by
      simpa [AsmLine.wf, AsmLine.operandPresent, AsmLine.operandFits, hm] using hwf
    exact ⟨hfits, fun hnone => by simp [htakes] at hnone⟩

/-- The opcode of a mnemonic (30_encoding R28); ADVANCE has none of its own. -/
def opcodeOf : Mnemonic → Opcode
  | .bwidth => 0x10#8
  | .setn => 0x11#8
  | .readc => 0x12#8
  | .seed => 0x20#8
  | .step => 0x21#8
  | .reads => 0x22#8
  | .map => 0x30#8
  | .sample => 0x31#8
  | .advance => 0x00#8

/-- A mnemonic but ADVANCE stands for one command, with its opcode and the operand as its argument. -/
theorem commandsOf_eq_singleton {m : Mnemonic} {v : Nat} (hm : m ≠ .advance) (hv : v < 2 ^ 64)
    (hnone : m.takesOperand = false → v = 0) :
    ∃ i, commandsOf m v = [i] ∧ i.argField.toNat = v ∧ i.opcode = opcodeOf m := by
  have hword : (BitVec.ofNat 64 v).toNat = v := Nat.mod_eq_of_lt hv
  cases m with
  | bwidth => exact ⟨_, rfl, hword, rfl⟩
  | setn => exact ⟨_, rfl, hword, rfl⟩
  | seed => exact ⟨_, rfl, hword, rfl⟩
  | map => exact ⟨_, rfl, hword, rfl⟩
  | readc => exact ⟨_, rfl, (hnone rfl).symm, rfl⟩
  | step => exact ⟨_, rfl, (hnone rfl).symm, rfl⟩
  | reads => exact ⟨_, rfl, (hnone rfl).symm, rfl⟩
  | sample => exact ⟨_, rfl, (hnone rfl).symm, rfl⟩
  | advance => exact absurd rfl hm

/-- Settles O7. -/
theorem assembledLineIsOneCommand : Obligations.AssembledLineIsOneCommand := by
  refine ⟨fun l hwf hm => ?_, fun l => expandLine_of_not_wf⟩
  obtain ⟨hfits, hnone⟩ := operand_of_wf hwf hm
  obtain ⟨i, hcommands, harg, hopcode⟩ := commandsOf_eq_singleton hm hfits hnone
  refine ⟨i, by rw [expandLine_of_wf hwf, hcommands], by rw [argOf_encode, harg], ?_⟩
  rw [opOf_encode, hopcode]
  rfl

/-! ## ADVANCE -/

/-- 41_generator R48: the transaction of STEP on a seeded idle block. -/
theorem transact_step_of_seeded {s : State} (hseeded : s.state ≠ 0#64) (hidle : s.port = .idle) :
    transact (encode .step) s =
      some ({ status := statusOk, result := lfsrNext s.state }, s.withState (lfsrNext s.state)) := by
  have hperform : performCommand (encode .step) s =
      .next (answer { status := statusOk, result := lfsrNext s.state } (s.withState (lfsrNext s.state))) := by
    rw [performCommand_of_command (decode_encode .step), exec, execStep, seededCheck_eq_none_iff.mpr hseeded,
      guarded_none, respond]
  refine transact_eq_some_iff.mpr ⟨hidle, _, hperform, rfl, ?_⟩
  cases s
  cases hidle
  rfl

/-- 41_generator R46, R48: k STEPs on a seeded idle block. -/
theorem session_replicate_step (k : Nat) {s : State} (hseeded : s.state ≠ 0#64) (hidle : s.port = .idle) :
    ∃ rs, session (List.replicate k (encode .step)) s = some (rs, s.withState (lfsrIter k s.state)) ∧
      rs.length = k := by
  induction k generalizing s with
  | zero => exact ⟨[], rfl, rfl⟩
  | succ k ih =>
    obtain ⟨rs, hrun, hlength⟩ := ih (s := s.withState (lfsrNext s.state)) (lfsrNext_ne_zero hseeded) hidle
    refine ⟨{ status := statusOk, result := lfsrNext s.state } :: rs, ?_, congrArg (· + 1) hlength⟩
    rw [List.replicate_succ, session_cons_of_transact (transact_step_of_seeded hseeded hidle), hrun]
    rfl

/-- Settles O8: every STEP keeps the block seeded, so none of them is rejected. -/
theorem advanceExpandsToSteps : Obligations.AdvanceExpandsToSteps := by
  refine ⟨fun k => expandLine_of_wf rfl, fun k s hseeded hidle => ?_⟩
  rw [List.map_replicate]
  exact session_replicate_step k hseeded hidle

end Sys2Proof.Machine


/-! # The Bit-Width Unit: the statements of spec/40_bitwidth.md

Everything about `bit_width` follows from `IsBitWidth`, 2^B ≤ n < 2^(B+1): the exponent is unique, its bit is the
top 1 bit, and the doubling loop stops with a count of B + 1 (`doublingLoop_of_isBitWidth`). BWIDTH and SETN share
their two rejections (`exec_of_countCheck`), and the word READC reads is taken apart field by field. That the
generator's register and the configuration's do not disturb each other is one lemma about guarded responses
(`guarded_respond_overwrite`). -/

namespace Sys2Proof.Machine

/-! ## The function and its top bit -/

/-- 40_bitwidth R35: the bare function has a value wherever n is not 0. -/
theorem bitWidth?_of_ne_zero {n : Count} (hn : n ≠ 0#32) : bitWidth? n = some (bitWidth n) := by
  cases htop : topBit n 32 with
  | none =>
    refine absurd (BitVec.eq_of_getLsbD_eq fun i hi => ?_) hn
    rw [topBit_none htop i hi, BitVec.getLsbD_zero]
  | some i =>
    have hvalue : bitWidth? n = some (BitVec.ofNat 5 i) := by rw [bitWidth?, htop, Option.map_some]
    rw [hvalue, bitWidth_of_some hvalue]

/-- The bounds leave one exponent, in all natural numbers: floor(log2(n)). -/
theorem IsBitWidth.eq_of_bounds {n : Count} {b : Width} (h : IsBitWidth n b) {k : Nat} (hle : 2 ^ k ≤ n.toNat)
    (hlt : n.toNat < 2 ^ (k + 1)) : k = b.toNat := by
  rw [← Nat.log_eq_of_pow_le_of_lt_pow hle hlt, Nat.log_eq_of_pow_le_of_lt_pow h.1 h.2]

theorem IsBitWidth.getLsbD_top {n : Count} {b : Width} (h : IsBitWidth n b) : n.getLsbD b.toNat = true :=
  Nat.testBit_of_two_pow_le_and_two_pow_add_one_gt h.1 h.2

theorem IsBitWidth.getLsbD_above {n : Count} {b : Width} (h : IsBitWidth n b) {i : Nat} (hi : b.toNat < i) :
    n.getLsbD i = false :=
  Nat.testBit_lt_two_pow (Nat.lt_of_lt_of_le h.2 (Nat.pow_le_pow_right Nat.two_pos hi))

/-- Settles O9: the scan from the top finds an exponent within the bounds, and the bounds say the rest. -/
theorem bitWidthIsFloorLog2 : Obligations.BitWidthIsFloorLog2 := by
  refine ⟨fun n hn => ?_, by decide, by decide⟩
  have hwidth : IsBitWidth n (bitWidth n) := isBitWidth_bitWidth hn
  exact ⟨bitWidth n, bitWidth?_of_ne_zero hn, hwidth, fun _ => hwidth.eq_of_bounds, hwidth.getLsbD_top,
    fun _ => hwidth.getLsbD_above⟩

/-! ## The reference loop -/

/-- 40_bitwidth R36: one doubling of 2^count stays within the 33 bits of the accumulator. -/
theorem toNat_shiftLeft_one_of_pow {acc : BitVec 33} {count : Nat} (hacc : acc.toNat = 2 ^ count)
    (hcount : count < 32) : (acc <<< 1).toNat = 2 ^ (count + 1) := by
  have hfits : 2 ^ (count + 1) < 2 ^ 33 := Nat.pow_lt_pow_right (by omega) (by omega)
  rw [BitVec.toNat_shiftLeft, hacc, Nat.shiftLeft_eq, pow_one, ← pow_succ, Nat.mod_eq_of_lt hfits]

/-- 2^count has not passed n while the count is at most B. -/
theorem IsBitWidth.pow_le_iff {n : Count} {b : Width} (h : IsBitWidth n b) (count : Nat) :
    2 ^ count ≤ n.toNat ↔ count ≤ b.toNat := by
  constructor
  · intro hle
    exact Nat.le_of_lt_succ ((Nat.pow_lt_pow_iff_right Nat.one_lt_two).mp (Nat.lt_of_le_of_lt hle h.2))
  · intro hle
    exact Nat.le_trans (Nat.pow_le_pow_right Nat.two_pos hle) h.1

/-- 40_bitwidth R36: with acc = 2^count at the head of a round and rounds enough left, the loop stops with a count
of B + 1 and acc = 2^(B+1). -/
theorem doublingLoop_of_isBitWidth {n : Count} {b : Width} (h : IsBitWidth n b) {fuel count : Nat} {acc : BitVec 33}
    (hacc : acc.toNat = 2 ^ count) (hcount : count ≤ b.toNat + 1) (hfuel : b.toNat + 1 ≤ count + fuel) :
    (doublingLoop n fuel acc count).1 = b.toNat + 1 ∧
      (doublingLoop n fuel acc count).2.toNat = 2 ^ (b.toNat + 1) := by
  induction fuel generalizing acc count with
  | zero =>
    obtain rfl : count = b.toNat + 1 := by omega
    exact ⟨rfl, hacc⟩
  | succ fuel ih =>
    have hgoes : acc ≤ n.setWidth 33 ↔ count ≤ b.toNat := by
      rw [BitVec.le_def, hacc, BitVec.toNat_setWidth_of_le (by omega), h.pow_le_iff]
    rw [doublingLoop]
    split_ifs with hle
    · have hbelow : count ≤ b.toNat := hgoes.mp hle
      exact ih (toNat_shiftLeft_one_of_pow hacc (Nat.lt_of_le_of_lt hbelow b.isLt)) (by omega) (by omega)
    · have habove : ¬ count ≤ b.toNat := fun hbelow => hle (hgoes.mpr hbelow)
      obtain rfl : count = b.toNat + 1 := by omega
      exact ⟨rfl, hacc⟩

/-- Settles O10: 33 rounds are enough for every exponent below 32. -/
theorem referenceLoopComputesBitWidth : Obligations.ReferenceLoopComputesBitWidth := by
  refine ⟨fun n hn => ?_, rfl⟩
  obtain ⟨hcount, hacc⟩ : (referenceLoop n).1 = (bitWidth n).toNat + 1 ∧
      (referenceLoop n).2.toNat = 2 ^ ((bitWidth n).toNat + 1) :=
    doublingLoop_of_isBitWidth (isBitWidth_bitWidth hn) rfl (Nat.le_add_left _ _) (by omega)
  refine ⟨bitWidth n, bitWidth?_of_ne_zero hn, ?_, hcount, hacc⟩
  rw [bitWidthRef?, if_neg hn, hcount, Nat.add_sub_cancel]

/-! ## BWIDTH and SETN -/

/-- 60_exceptions R59, for ARG_RANGE: the rejection's entry, field by field. -/
theorem reject_argRange (s : State) : reject .argRange s = rejectedWith 2 s := rfl

/-- 60_exceptions R59, for ZERO_N: the rejection's entry, field by field. -/
theorem reject_zeroN (s : State) : reject .zeroN s = rejectedWith 3 s := rfl

/-- 30_encoding R26: an accepted command's answer, field by field. -/
theorem respond_eq_answeredWith (result : Word) (s : State) :
    respond result s = .next (answeredWith result s) := rfl

/-- 40_bitwidth R39, R40: a command with the conditions of BWIDTH and SETN is rejected for a count of 2^32 or more
and for a count of 0. -/
theorem exec_of_countCheck {i : Instr} {n : Word} {s : State} (h : rejectionOf i s = countCheck n) :
    (2 ^ 32 ≤ n.toNat → exec i s = .next (rejectedWith 2 s)) ∧
      (n.toNat = 0 → exec i s = .next (rejectedWith 3 s)) := by
  rw [countCheck_eq] at h
  refine ⟨fun hrange => ?_, fun hzero => ?_⟩
  · rw [if_pos hrange] at h
    rw [exec_of_rejection h, raise, reject_argRange]
  · rw [if_neg (by omega), if_pos hzero] at h
    rw [exec_of_rejection h, raise, reject_zeroN]

/-- 40_bitwidth R39: BWIDTH with a legal count. -/
theorem exec_bwidth_of_accepted {n : Word} (h : countCheck n = none) (s : State) :
    exec (.bwidth n) s = .next (answeredWith ((bitWidth (countOf n)).setWidth 64) s) := by
  rw [exec, execBwidth, h, guarded_none, respond_eq_answeredWith]

/-- 40_bitwidth R40: SETN with a legal count. -/
theorem exec_setn_of_accepted {n : Word} (h : countCheck n = none) (s : State) :
    exec (.setn n) s = .next (answeredWith ((bitWidth (countOf n)).setWidth 64)
      (s.withConfig (countOf n) (bitWidth (countOf n)))) := by
  rw [exec, execSetn, h, guarded_none, respond_eq_answeredWith]

/-- The bit width that an accepted BWIDTH or SETN answers with. -/
theorem isBitWidth_bitWidth_countOf {n : Word} (hlow : 1 ≤ n.toNat) (hhigh : n.toNat < 2 ^ 32) :
    IsBitWidth (n.setWidth 32) (bitWidth (countOf n)) :=
  countOf_eq_setWidth n ▸ isBitWidth_bitWidth (countOf_ne_zero hlow hhigh)

/-- Settles O11. -/
theorem bwidthResultAndFrame : Obligations.BwidthResultAndFrame := by
  intro n s
  obtain ⟨hrange, hzero⟩ := exec_of_countCheck (i := .bwidth n) (s := s) rfl
  refine ⟨decode_encode (.bwidth n), hrange, hzero, fun hlow hhigh =>
    ⟨_, isBitWidth_bitWidth_countOf hlow hhigh, ?_⟩⟩
  rw [exec_bwidth_of_accepted (countCheck_eq_none_iff.mpr ⟨hlow, hhigh⟩)]

/-- Settles O12. -/
theorem setnResultAndFrame : Obligations.SetnResultAndFrame := by
  intro n s
  obtain ⟨hrange, hzero⟩ := exec_of_countCheck (i := .setn n) (s := s) rfl
  refine ⟨decode_encode (.setn n), hrange, hzero, fun hlow hhigh =>
    ⟨_, isBitWidth_bitWidth_countOf hlow hhigh, ?_⟩⟩
  rw [exec_setn_of_accepted (countCheck_eq_none_iff.mpr ⟨hlow, hhigh⟩), countOf_eq_setWidth, State.withConfig]

/-! ## READC -/

/-- 40_bitwidth R41: result bits 31:0. -/
theorem configWord_ncfg (s : State) : (configWord s).extractLsb' 0 32 = s.ncfg := by
  apply BitVec.eq_of_getLsbD_eq
  intro i hi
  rw [BitVec.getLsbD_extractLsb', configWord_getLsbD]
  simp [hi]

/-- 40_bitwidth R41: result bits 36:32. -/
theorem configWord_bcfg (s : State) : (configWord s).extractLsb' 32 5 = s.bcfg := by
  apply BitVec.eq_of_getLsbD_eq
  intro i hi
  rw [BitVec.getLsbD_extractLsb', configWord_getLsbD, if_neg (by omega), if_pos (by omega), Nat.add_sub_cancel_left]
  simp [hi]

/-- 40_bitwidth R41: result bits 39:37. -/
theorem configWord_gap (s : State) : (configWord s).extractLsb' 37 3 = 0#3 := by
  apply BitVec.eq_of_getLsbD_eq
  intro i hi
  rw [BitVec.getLsbD_extractLsb', configWord_getLsbD, if_neg (by omega), if_neg (by omega), if_pos (by omega)]
  simp

/-- 40_bitwidth R41, 10_state R14: result bits 47:40, of which the two hardwired ones read 0. -/
theorem configWord_errs (s : State) {i : Nat} (hi : i < 8) :
    (configWord s).getLsbD (40 + i) = (decide (1 ≤ i ∧ i ≤ 6) && s.errs.getLsbD i) := by
  rw [configWord_getLsbD, if_neg (by omega), if_neg (by omega), if_neg (by omega), if_pos (by omega),
    Nat.add_sub_cancel_left, errorsRead_getLsbD]

/-- 40_bitwidth R41: result bits 63:48. -/
theorem configWord_high (s : State) : (configWord s).extractLsb' 48 16 = 0#16 := by
  apply BitVec.eq_of_getLsbD_eq
  intro i hi
  rw [BitVec.getLsbD_extractLsb', configWord_getLsbD, if_neg (by omega), if_neg (by omega), if_neg (by omega),
    if_neg (by omega)]
  simp

/-- 40_bitwidth R41, 30_encoding R30: READC, whatever its argument. -/
theorem decode_commandOf_readc (arg : Word) : decode (commandOf 0x12#8 arg) = .command .readc := by
  simp [decode]

/-- 40_bitwidth R41: READC is always accepted. -/
theorem exec_readc (s : State) : exec .readc s = .next (answeredWith (configWord s) s) := by
  rw [exec, execReadc, respond_eq_answeredWith]

/-- Settles O13: the result is the packed word, field by field. -/
theorem readcResultAndFrame : Obligations.ReadcResultAndFrame := by
  intro arg s
  refine ⟨decode_commandOf_readc arg, configWord s, exec_readc s, configWord_ncfg s, configWord_bcfg s,
    configWord_gap s, fun i hlow hhigh => ?_, configWord_errs s (i := 0) (by omega),
    configWord_errs s (i := 7) (by omega), configWord_high s⟩
  rw [configWord_errs s (by omega), decide_eq_true ⟨hlow, hhigh⟩, Bool.true_and]

/-! ## The two groups of registers -/

/-- An update of registers that answering a command neither sees nor writes: all but ERRS and the port. -/
structure ApartFromAnswering (f : State → State) : Prop where
  answer (r : Response) (s : State) : answer r (f s) = f (answer r s)
  reject (c : Cause) (s : State) : reject c (f s) = f (reject c s)

theorem apartFromAnswering_state (v : Word) : ApartFromAnswering fun s => { s with state := v } :=
  ⟨fun _ _ => rfl, fun _ _ => rfl⟩

theorem apartFromAnswering_config (n : Count) (b : Width) :
    ApartFromAnswering fun s => { s with ncfg := n, bcfg := b } :=
  ⟨fun _ _ => rfl, fun _ _ => rfl⟩

/-- A command whose condition and result do not look at some registers carries any change of them through. -/
theorem guarded_respond_overwrite {f : State → State} (hf : ApartFromAnswering f) {check : Option Cause}
    {result : Word} {s u t : State} (h : guarded check s (respond result u) = .next t) :
    guarded check (f s) (respond result (f u)) = .next (f t) := by
  cases check with
  | none =>
    rw [guarded_none, respond_next_iff] at h ⊢
    rw [h, hf.answer]
  | some c =>
    rw [guarded_some, raise_next_iff] at h ⊢
    rw [h, hf.reject]

/-- Settles O56: neither the conditions nor the results of the first four commands look at STATE, nor those of the
other three at NCFG and BCFG. -/
theorem generatorAndConfigurationAreIndependent : Obligations.GeneratorAndConfigurationAreIndependent := by
  refine ⟨fun i s t v hi h => ?_, fun i s t n b hi h => ?_⟩
  · have hf := apartFromAnswering_state v
    obtain ⟨n, rfl | rfl | rfl⟩ | rfl := hi
    · exact guarded_respond_overwrite hf (check := countCheck n) h
    · exact guarded_respond_overwrite hf (check := countCheck n) h
    · exact guarded_respond_overwrite hf (check := configuredCheck s) h
    · exact guarded_respond_overwrite hf (check := none) (s := s) h
  · have hf := apartFromAnswering_config n b
    obtain ⟨v, rfl⟩ | rfl | rfl := hi
    · exact guarded_respond_overwrite hf (check := seedCheck v) h
    · exact guarded_respond_overwrite hf (check := seededCheck s) h
    · exact guarded_respond_overwrite hf (check := none) (s := s) h

end Sys2Proof.Machine


/-! # The Generator: the statements of spec/41_generator.md

One step is known bit by bit (`lfsrNext_getLsbD`), and so is its inverse; the recurrence of the taps follows because
steps move bits down (`getLsbD_lfsrIter`). The three commands are one equation each for acceptance and rejection, and
determinism is an induction on a run of transactions (`transact_state`).

The maximal period rests on one state, `topSeed`, whose only 1 bit is bit 63. A linear map `doubleSteps` takes the
state n steps from it to the state 2n steps from it, so that the state any number of steps away is computed from the
number's binary digits (`jump_eq`). That computation shows that 2^64 − 1 steps return to `topSeed` and that
(2^64 − 1) / q steps do not, for the primes q of 2^64 − 1, so 2^64 − 1 is the minimal period. There are only
2^64 − 1 nonzero states: all lie on that one cycle. -/

namespace Sys2Proof.Machine

/-! ## One step and its inverse -/

theorem lfsrNext_getLsbD_top (s : Word) :
    (lfsrNext s).getLsbD 63 = (s.getLsbD 0 ^^ s.getLsbD 3 ^^ s.getLsbD 30 ^^ s.getLsbD 55) := by
  rw [lfsrNext_getLsbD s (by omega), if_pos rfl, feedback_getLsbD]

theorem lfsrNext_getLsbD_of_lt (s : Word) {i : Nat} (hi : i < 63) :
    (lfsrNext s).getLsbD i = s.getLsbD (i + 1) := by
  rw [lfsrNext_getLsbD s (by omega), if_neg (by omega)]

/-- Settles O14: the shift leaves bit 63 free for the feedback bit. -/
theorem lfsrNextBitByBit : Obligations.LfsrNextBitByBit := by
  intro s
  refine ⟨lfsrNext_getLsbD_top s, fun i hi => lfsrNext_getLsbD_of_lt s (by omega), ?_⟩
  apply BitVec.eq_of_getLsbD_eq
  intro i hi
  rw [lfsrNext_getLsbD s hi, feedback_getLsbD, BitVec.getLsbD_or, BitVec.getLsbD_ushiftRight,
    BitVec.getLsbD_shiftLeft, BitVec.getLsbD_setWidth, BitVec.getLsbD_ofBool]
  split_ifs with htop
  · subst htop
    simp
  · have hlow : i < 63 := by omega
    simp [hlow, Nat.add_comm]

/-- `lfsr_prev` bit 0 is the bit that left, recovered from the feedback bit and the taps one place lower; every other
bit is the one below it. -/
theorem lfsrPrev_getLsbD (t : Word) {i : Nat} (hi : i < 64) :
    (lfsrPrev t).getLsbD i =
      if i = 0 then (t.getLsbD 63 ^^ t.getLsbD 2 ^^ t.getLsbD 29 ^^ t.getLsbD 54) else t.getLsbD (i - 1) := by
  unfold lfsrPrev
  rw [BitVec.getLsbD_append]
  split_ifs with hlow hzero hzero
  · subst hzero
    simp
  · omega
  · omega
  · have h63 : i - 1 < 63 := by omega
    simp [h63]

/-- Three taps taken out of an exclusive-or a second time leave the fourth bit. -/
theorem xor_taps_cancel (a b c d : Bool) : ((a ^^ b ^^ c ^^ d) ^^ b ^^ c ^^ d) = a := by
  revert a b c d
  decide

theorem lfsrPrev_lfsrNext (s : Word) : lfsrPrev (lfsrNext s) = s := by
  apply BitVec.eq_of_getLsbD_eq
  intro i hi
  rw [lfsrPrev_getLsbD _ hi]
  split_ifs with hzero
  · subst hzero
    rw [lfsrNext_getLsbD_top, lfsrNext_getLsbD_of_lt s (i := 2) (by omega),
      lfsrNext_getLsbD_of_lt s (i := 29) (by omega), lfsrNext_getLsbD_of_lt s (i := 54) (by omega)]
    exact xor_taps_cancel _ _ _ _
  · rw [lfsrNext_getLsbD_of_lt s (by omega), Nat.sub_add_cancel (by omega)]

theorem lfsrNext_lfsrPrev (t : Word) : lfsrNext (lfsrPrev t) = t := by
  apply BitVec.eq_of_getLsbD_eq
  intro i hi
  by_cases htop : i = 63
  · subst htop
    rw [lfsrNext_getLsbD_top, lfsrPrev_getLsbD t (i := 0) (by omega), lfsrPrev_getLsbD t (i := 3) (by omega),
      lfsrPrev_getLsbD t (i := 30) (by omega), lfsrPrev_getLsbD t (i := 55) (by omega)]
    exact xor_taps_cancel _ _ _ _
  · rw [lfsrNext_getLsbD_of_lt _ (by omega), lfsrPrev_getLsbD t (by omega), if_neg (by omega), Nat.add_sub_cancel]

theorem lfsrNext_zero : lfsrNext 0#64 = 0#64 := by decide

/-- Settles O15. -/
theorem lfsrIsInvertibleAndKeepsNonzero : Obligations.LfsrIsInvertibleAndKeepsNonzero :=
  ⟨fun s => ⟨lfsrPrev_lfsrNext s, lfsrNext_lfsrPrev s⟩, lfsrNext_zero, fun _ => lfsrNext_ne_zero,
    Function.bijective_iff_has_inverse.mpr ⟨lfsrPrev, lfsrPrev_lfsrNext, lfsrNext_lfsrPrev⟩⟩

/-! ## Many steps -/

theorem lfsrIter_succ (k : Nat) (s : Word) : lfsrIter (k + 1) s = lfsrNext (lfsrIter k s) := lfsrIter_add k 1 s

theorem lfsrIter_eq_iterate (k : Nat) (s : Word) : lfsrIter k s = lfsrNext^[k] s := by
  induction k generalizing s with
  | zero => rfl
  | succ k ih => exact ih (lfsrNext s)

theorem lfsrIter_ne_zero (k : Nat) {s : Word} (hs : s ≠ 0#64) : lfsrIter k s ≠ 0#64 := by
  induction k generalizing s with
  | zero => exact hs
  | succ k ih => exact ih (lfsrNext_ne_zero hs)

/-- 70_reset R78: steps move bits down. -/
theorem getLsbD_lfsrIter {k i : Nat} (s : Word) (h : i + k ≤ 63) :
    (lfsrIter k s).getLsbD i = s.getLsbD (i + k) := by
  induction k generalizing s with
  | zero => rfl
  | succ k ih => exact (ih (lfsrNext s) (by omega)).trans (lfsrNext_getLsbD_of_lt s (by omega))

theorem getLsbD_zero_lfsrIter_add (t : Nat) {i : Nat} (s : Word) (hi : i ≤ 63) :
    (lfsrIter (t + i) s).getLsbD 0 = (lfsrIter t s).getLsbD i := by
  rw [lfsrIter_add, getLsbD_lfsrIter _ (by omega), Nat.zero_add]

/-- Settles O16: the feedback bit of one step is bit 0 after 63 more. -/
theorem lfsrOutputObeysRecurrence : Obligations.LfsrOutputObeysRecurrence := by
  intro s t
  refine ⟨fun i hi => (getLsbD_zero_lfsrIter_add t s hi).symm, ?_⟩
  rw [getLsbD_zero_lfsrIter_add t s (i := 3) (by omega), getLsbD_zero_lfsrIter_add t s (i := 30) (by omega),
    getLsbD_zero_lfsrIter_add t s (i := 55) (by omega)]
  calc (lfsrIter (t + 1 + 63) s).getLsbD 0
      = (lfsrIter (t + 1) s).getLsbD 63 := getLsbD_zero_lfsrIter_add (t + 1) s (by omega)
    _ = (lfsrNext (lfsrIter t s)).getLsbD 63 := by rw [lfsrIter_succ]
    _ = _ := lfsrNext_getLsbD_top _

/-! ## Linear maps of the state -/

/-- Linear over exclusive-or, as `lfsr_next` is (`lfsrNext_xor`). -/
def XorLinear (f : Word → Word) : Prop := ∀ x y, f (x ^^^ y) = f x ^^^ f y

theorem XorLinear.map_zero {f : Word → Word} (hf : XorLinear f) : f 0#64 = 0#64 := by
  have h := hf 0#64 0#64
  rwa [BitVec.xor_self, BitVec.xor_self] at h

theorem XorLinear.comp {f g : Word → Word} (hf : XorLinear f) (hg : XorLinear g) : XorLinear fun x => f (g x) :=
  fun x y => (congrArg f (hg x y)).trans (hf _ _)

/-- The exclusive-or of the words `w i` over the 1 bits i of x below a bound. -/
def xorWhere (x : Word) (w : Nat → Word) : Nat → Word
  | 0 => 0#64
  | k + 1 => xorWhere x w k ^^^ bif x.getLsbD k then w k else 0#64

theorem cond_xor (a b : Bool) (v : Word) :
    (bif a ^^ b then v else 0#64) = (bif a then v else 0#64) ^^^ (bif b then v else 0#64) := by
  cases a <;> cases b <;> simp

theorem xorLinear_xorWhere (w : Nat → Word) (k : Nat) : XorLinear fun x => xorWhere x w k := by
  intro x y
  induction k with
  | zero => exact BitVec.xor_self.symm
  | succ k ih =>
    simp only [xorWhere, BitVec.getLsbD_xor, cond_xor, ih]
    ac_rfl

/-- A word is the exclusive-or of its bits. -/
theorem getLsbD_xorWhere_twoPow (x : Word) {k : Nat} (hk : k ≤ 64) (i : Nat) :
    (xorWhere x (BitVec.twoPow 64) k).getLsbD i = (decide (i < k) && x.getLsbD i) := by
  induction k with
  | zero => simp [xorWhere]
  | succ k ih =>
    have hstep : (xorWhere x (BitVec.twoPow 64) (k + 1)).getLsbD i =
        ((decide (i < k) && x.getLsbD i) ^^ (x.getLsbD k && decide (k = i))) := by
      rw [← ih (by omega), xorWhere]
      cases x.getLsbD k <;> simp [show k < 64 by omega]
    rw [hstep]
    obtain hlt | rfl | hgt := Nat.lt_trichotomy i k
    · simp [hlt, Nat.lt_succ_of_lt hlt, hlt.ne']
    · simp
    · simp [hgt.ne, Nat.not_lt_of_gt hgt, show ¬ i < k + 1 by omega]

theorem xorWhere_twoPow (x : Word) : xorWhere x (BitVec.twoPow 64) 64 = x := by
  apply BitVec.eq_of_getLsbD_eq
  intro i hi
  rw [getLsbD_xorWhere_twoPow x le_rfl, decide_eq_true hi, Bool.true_and]

theorem xorWhere_of_twoPow (w : Nat → Word) {i k : Nat} (hi : i < 64) :
    xorWhere (BitVec.twoPow 64 i) w k = if i < k then w i else 0#64 := by
  induction k with
  | zero => rfl
  | succ k ih =>
    rw [xorWhere, ih, BitVec.getLsbD_twoPow, decide_eq_true hi, Bool.true_and]
    obtain hlt | rfl | hgt := Nat.lt_trichotomy i k
    · simp [hlt, Nat.lt_succ_of_lt hlt, hlt.ne]
    · simp
    · simp [hgt.ne', Nat.not_lt_of_gt hgt, show ¬ i < k + 1 by omega]

/-- Two linear maps that agree on the words of a single 1 bit are equal. -/
theorem XorLinear.eq_of_twoPow {f g : Word → Word} (hf : XorLinear f) (hg : XorLinear g)
    (h : ∀ i, i < 64 → f (BitVec.twoPow 64 i) = g (BitVec.twoPow 64 i)) (x : Word) : f x = g x := by
  have hpart : ∀ k, k ≤ 64 →
      f (xorWhere x (BitVec.twoPow 64) k) = g (xorWhere x (BitVec.twoPow 64) k) := by
    intro k hk
    induction k with
    | zero => exact hf.map_zero.trans hg.map_zero.symm
    | succ k ih =>
      rw [xorWhere, hf, hg, ih (by omega)]
      cases x.getLsbD k
      · rw [cond_false, hf.map_zero, hg.map_zero]
      · rw [cond_true, h k hk]
  simpa only [xorWhere_twoPow] using hpart 64 le_rfl

/-! ## Doubling a number of steps -/

/-- The state from which steps are counted: bit 63 alone is 1. -/
def topSeed : Word := BitVec.twoPow 64 63

/-- What `doubleSteps` makes of the state whose only 1 bit is bit 63 − j. -/
def doubledUnit : Nat → Word
  | 0 => topSeed
  | j + 1 => lfsrNext (lfsrNext (doubledUnit j)) ^^^ if 63 - j ∈ [3, 30, 55] then topSeed else 0#64

/-- The linear map that takes the state n steps from `topSeed` to the state 2n steps from it
(`doubleSteps_lfsrIter_topSeed`). -/
def doubleSteps (x : Word) : Word := xorWhere x (fun i => doubledUnit (63 - i)) 64

theorem xorLinear_doubleSteps : XorLinear doubleSteps := xorLinear_xorWhere _ 64

theorem doubleSteps_twoPow {i : Nat} (hi : i < 64) :
    doubleSteps (BitVec.twoPow 64 i) = doubledUnit (63 - i) := by
  rw [doubleSteps, xorWhere_of_twoPow _ hi, if_pos hi]

theorem doubleSteps_topSeed : doubleSteps topSeed = topSeed := doubleSteps_twoPow (by omega)

/-- A single 1 bit above bit 0 moves down, and is fed back to bit 63 where it is a tap: 63 cases, computed. -/
theorem lfsrNext_twoPow_succ {i : Nat} (hi : i < 63) :
    lfsrNext (BitVec.twoPow 64 (i + 1)) =
      BitVec.twoPow 64 i ^^^ if i + 1 ∈ [3, 30, 55] then topSeed else 0#64 := by
  revert i
  decide +kernel

theorem lfsrNext_twoPow_zero : lfsrNext (BitVec.twoPow 64 0) = topSeed := by decide

/-- `doubleSteps` of one step is two steps. For the bits above bit 0 this is how `doubledUnit` goes from one to the
next; that the circle closes at bit 0 is computed. -/
theorem doubleSteps_lfsrNext (x : Word) : doubleSteps (lfsrNext x) = lfsrNext (lfsrNext (doubleSteps x)) := by
  refine XorLinear.eq_of_twoPow (xorLinear_doubleSteps.comp lfsrNext_xor)
    (XorLinear.comp lfsrNext_xor (XorLinear.comp lfsrNext_xor xorLinear_doubleSteps)) (fun i hi => ?_) x
  cases i with
  | zero =>
    rw [lfsrNext_twoPow_zero, doubleSteps_topSeed, doubleSteps_twoPow hi]
    decide +kernel
  | succ i =>
    have hnext : 63 - i = (63 - (i + 1)) + 1 := by omega
    have htap : 63 - (63 - (i + 1)) = i + 1 := by omega
    rw [lfsrNext_twoPow_succ (by omega), xorLinear_doubleSteps, doubleSteps_twoPow hi, doubleSteps_twoPow (by omega),
      hnext, doubledUnit, htap]
    split_ifs
    · rw [doubleSteps_topSeed, BitVec.xor_assoc, BitVec.xor_self, BitVec.xor_zero]
    · rw [xorLinear_doubleSteps.map_zero, BitVec.xor_zero, BitVec.xor_zero]

theorem doubleSteps_lfsrIter_topSeed (n : Nat) :
    doubleSteps (lfsrIter n topSeed) = lfsrIter (2 * n) topSeed := by
  induction n with
  | zero => exact doubleSteps_topSeed
  | succ n ih => rw [lfsrIter_succ, doubleSteps_lfsrNext, ih, Nat.mul_succ, lfsrIter_succ, lfsrIter_succ]

/-- The state n steps from `topSeed`, from the k binary digits of n. -/
def jump : Nat → Nat → Word
  | 0, _ => topSeed
  | k + 1, n =>
    bif n.testBit 0 then lfsrNext (doubleSteps (jump k (n / 2))) else doubleSteps (jump k (n / 2))

theorem jump_eq {k n : Nat} (hn : n < 2 ^ k) : jump k n = lfsrIter n topSeed := by
  induction k generalizing n with
  | zero =>
    obtain rfl : n = 0 := by omega
    rfl
  | succ k ih =>
    have hhalf : n / 2 < 2 ^ k := by omega
    rw [jump, ih hhalf, doubleSteps_lfsrIter_topSeed, ← lfsrIter_succ, Nat.testBit_zero]
    obtain heven | hodd := Nat.mod_two_eq_zero_or_one n
    · have htwice : 2 * (n / 2) = n := by omega
      rw [heven, htwice]
      rfl
    · have htwice : 2 * (n / 2) + 1 = n := by omega
      rw [hodd, htwice]
      rfl

/-! ## The period -/

theorem lfsrIter_topSeed_period : lfsrIter (2 ^ 64 - 1) topSeed = topSeed := by
  rw [← jump_eq (k := 64) (by norm_num)]
  decide +kernel

/-- The prime factors of 2^64 − 1 (41_generator R45). -/
def periodPrimes : List Nat := [3, 5, 17, 257, 641, 65537, 6700417]

theorem jump_div_periodPrimes_ne : ∀ q ∈ periodPrimes, jump 64 ((2 ^ 64 - 1) / q) ≠ topSeed := by
  decide +kernel

theorem mem_periodPrimes {q : Nat} (hq : q.Prime) (hdvd : q ∣ 2 ^ 64 - 1) : q ∈ periodPrimes := by
  have hfactors : 2 ^ 64 - 1 = periodPrimes.prod := by norm_num [periodPrimes]
  have hprimes : ∀ p ∈ periodPrimes, p.Prime := by
    simp only [periodPrimes, List.forall_mem_cons, List.not_mem_nil, false_implies, implies_true, and_true]
    norm_num
  obtain ⟨p, hp, hqp⟩ := (Nat.Prime.prime hq).dvd_prod_iff.mp (hfactors ▸ hdvd)
  rwa [(Nat.prime_dvd_prime_iff_eq hq (hprimes p hp)).mp hqp]

open Function (IsPeriodicPt minimalPeriod)

/-- A period is the minimal one if no quotient of it by a prime is a period. -/
theorem minimalPeriod_eq_of_div_prime {α : Type} {f : α → α} {x : α} {n : Nat} (hper : IsPeriodicPt f n x)
    (hdiv : ∀ q, q.Prime → q ∣ n → ¬ IsPeriodicPt f (n / q) x) : minimalPeriod f x = n := by
  obtain ⟨a, ha⟩ := hper.minimalPeriod_dvd
  by_cases hone : a = 1
  · rw [ha, hone, mul_one]
  · have hq : a.minFac ∣ n := ha ▸ (Nat.minFac_dvd a).mul_left _
    refine absurd ?_ (hdiv a.minFac (Nat.minFac_prime hone) hq)
    rw [Function.isPeriodicPt_iff_minimalPeriod_dvd]
    exact ⟨a / a.minFac, by conv_lhs => rw [ha, Nat.mul_div_assoc _ (Nat.minFac_dvd a)]⟩

theorem minimalPeriod_topSeed : minimalPeriod lfsrNext topSeed = 2 ^ 64 - 1 := by
  refine minimalPeriod_eq_of_div_prime ?_ fun q hq hdvd => ?_
  · exact (lfsrIter_eq_iterate _ _).symm.trans lfsrIter_topSeed_period
  · have hne := jump_div_periodPrimes_ne q (mem_periodPrimes hq hdvd)
    rw [jump_eq (lt_of_le_of_lt (Nat.div_le_self _ _) (by norm_num)), lfsrIter_eq_iterate] at hne
    exact hne

theorem toNat_mem_Ioo_of_ne_zero {t : Word} (ht : t ≠ 0#64) : t.toNat ∈ Finset.Ioo 0 (2 ^ 64) :=
  Finset.mem_Ioo.mpr ⟨Nat.pos_of_ne_zero (BitVec.toNat_ne_iff_ne.mpr ht), t.isLt⟩

/-- There are only 2^64 − 1 nonzero states, so a cycle of that many visits them all. -/
theorem exists_lfsrIter_eq_of_minimalPeriod {s t : Word} (hs : s ≠ 0#64) (ht : t ≠ 0#64)
    (hperiod : minimalPeriod lfsrNext s = 2 ^ 64 - 1) : ∃ k, k < 2 ^ 64 - 1 ∧ lfsrIter k s = t := by
  have hmaps : Set.MapsTo (fun k => (lfsrIter k s).toNat) (Finset.range (2 ^ 64 - 1)) (Finset.Ioo 0 (2 ^ 64)) :=
    fun k _ => toNat_mem_Ioo_of_ne_zero (lfsrIter_ne_zero k hs)
  have hinj : Set.InjOn (fun k => (lfsrIter k s).toNat) (Finset.range (2 ^ 64 - 1)) := by
    intro j hj k hk heq
    have hiter : lfsrNext^[j] s = lfsrNext^[k] s := by
      rw [← lfsrIter_eq_iterate, ← lfsrIter_eq_iterate]
      exact BitVec.eq_of_toNat_eq heq
    rw [Finset.mem_coe, Finset.mem_range, ← hperiod] at hj hk
    exact Function.iterate_injOn_Iio_minimalPeriod hj hk hiter
  have hcard : (Finset.Ioo 0 (2 ^ 64)).card ≤ (Finset.range (2 ^ 64 - 1)).card := by
    rw [Nat.card_Ioo, Finset.card_range, Nat.sub_zero]
  obtain ⟨k, hk, heq⟩ := Finset.surjOn_of_injOn_of_card_le _ hmaps hinj hcard (toNat_mem_Ioo_of_ne_zero ht)
  exact ⟨k, Finset.mem_range.mp hk, BitVec.eq_of_toNat_eq heq⟩

/-- 41_generator R45: every nonzero state lies on the cycle of `topSeed`, so all have its minimal period. -/
theorem minimalPeriod_of_ne_zero {s : Word} (hs : s ≠ 0#64) : minimalPeriod lfsrNext s = 2 ^ 64 - 1 := by
  obtain ⟨k, -, rfl⟩ := exists_lfsrIter_eq_of_minimalPeriod (by decide) hs minimalPeriod_topSeed
  have hperiodic : topSeed ∈ Function.periodicPts lfsrNext :=
    Function.minimalPeriod_pos_iff_mem_periodicPts.mp (by rw [minimalPeriod_topSeed]; norm_num)
  rw [lfsrIter_eq_iterate, Function.minimalPeriod_apply_iterate hperiodic, minimalPeriod_topSeed]

/-- Settles O17. -/
theorem lfsrHasMaximalPeriod : Obligations.LfsrHasMaximalPeriod := by
  intro s hs
  have hperiod : minimalPeriod lfsrNext s = 2 ^ 64 - 1 := minimalPeriod_of_ne_zero hs
  refine ⟨?_, fun k hpos hlt => ⟨?_, lfsrIter_ne_zero k hs⟩,
    fun t ht => exists_lfsrIter_eq_of_minimalPeriod hs ht hperiod⟩
  · rw [lfsrIter_eq_iterate, ← hperiod]
    exact Function.iterate_minimalPeriod
  · rw [lfsrIter_eq_iterate]
    exact Function.not_isPeriodicPt_of_pos_of_lt_minimalPeriod (by omega) (hperiod ▸ hlt)

/-! ## SEED, STEP and READS -/

/-- 60_exceptions R59, for ZERO_SEED: the rejection's entry, field by field. -/
theorem reject_zeroSeed (s : State) : reject .zeroSeed s = rejectedWith 4 s := rfl

/-- 60_exceptions R59, for NOT_SEEDED: the rejection's entry, field by field. -/
theorem reject_notSeeded (s : State) : reject .notSeeded s = rejectedWith 5 s := rfl

/-- 41_generator R47: SEED with a seed other than 0. -/
theorem exec_seed_of_ne_zero {v : Word} (hv : v ≠ 0#64) (s : State) :
    exec (.seed v) s = .next (answeredWith v (s.withState v)) := by
  rw [exec, execSeed, seedCheck_eq_none_iff.mpr hv, guarded_none, respond_eq_answeredWith]

/-- 41_generator R48: STEP on a seeded block. -/
theorem exec_step_of_seeded {s : State} (hseeded : s.state ≠ 0#64) :
    exec .step s = .next (answeredWith (lfsrNext s.state) (s.withState (lfsrNext s.state))) := by
  rw [exec, execStep, seededCheck_eq_none_iff.mpr hseeded, guarded_none, respond_eq_answeredWith]

/-- Settles O19. -/
theorem seedResultAndFrame : Obligations.SeedResultAndFrame := by
  intro v s
  refine ⟨decode_encode (.seed v), fun hzero => ?_, fun hv => exec_seed_of_ne_zero hv s⟩
  have hrejected : rejectionOf (.seed v) s = some .zeroSeed := if_pos hzero
  rw [exec_of_rejection hrejected, raise, reject_zeroSeed]

/-- Settles O20. -/
theorem stepResultAndFrame : Obligations.StepResultAndFrame := by
  intro arg s
  refine ⟨by simp [decode], fun hzero => ?_, fun hseeded =>
    ⟨lfsrNext_ne_zero hseeded, exec_step_of_seeded hseeded⟩⟩
  have hrejected : rejectionOf .step s = some .notSeeded := if_pos hzero
  rw [exec_of_rejection hrejected, raise, reject_notSeeded]

/-- Settles O21: READS has no condition. -/
theorem readsResultAndFrame : Obligations.ReadsResultAndFrame := by
  intro arg s
  refine ⟨by simp [decode], ?_⟩
  rw [exec, execReads, respond_eq_answeredWith]

/-! ## Determinism -/

/-- 41_generator R46: on a seeded block only an accepted SEED or a STEP writes STATE, and STEP is accepted. -/
theorem performCommand_state_of_seeded {c : Command} {s t : State} (hseeded : s.state ≠ 0#64)
    (hnoseed : ∀ v : Word, v ≠ 0#64 → decode c ≠ .command (.seed v)) (h : performCommand c s = .next t) :
    t.state = if decode c = .command .step then lfsrNext s.state else s.state := by
  split_ifs with hstep
  · rw [performCommand_of_command hstep, exec_step_of_seeded hseeded] at h
    cases h
    rfl
  · cases performed_of_performCommand h with
    | rejected _ _ ht => rw [ht]; rfl
    | read _ _ _ _ ht => rw [ht]; rfl
    | configure _ _ _ ht => rw [ht]; rfl
    | seed v hdecode haccepted _ => exact absurd hdecode (hnoseed v (seedCheck_eq_none_iff.mp haccepted))
    | advance hdecode _ _ => exact absurd hdecode hstep

/-- Settles O22: each transaction of the run keeps STATE or steps it, and keeps the block seeded. -/
theorem generatorIsDeterministic : Obligations.GeneratorIsDeterministic := by
  intro cs
  induction cs with
  | nil =>
    intro s t rs _ _ hrun
    cases hrun
    rfl
  | cons c cs ih =>
    intro s t rs hseeded hnoseed hrun
    obtain ⟨hc, hcs⟩ := List.forall_mem_cons.mp hnoseed
    obtain ⟨r, u, qs, htransact, hrest, -⟩ := session_cons_eq_some hrun
    obtain ⟨-, w, hperform, -, rfl⟩ := transact_eq_some_iff.mp htransact
    have hstate := performCommand_state_of_seeded hseeded hc hperform
    rw [← takeResponse_state] at hstate
    rw [List.countP_cons]
    simp only [beq_iff_eq]
    split_ifs at hstate ⊢
    · rw [ih _ t qs (hstate ▸ lfsrNext_ne_zero hseeded) hcs hrest, hstate]
      rfl
    · rw [ih _ t qs (hstate ▸ hseeded) hcs hrest, hstate]
      rfl

end Sys2Proof.Machine


/-! # The Bucket Mapper: the statements of spec/42_mapper.md

The words of the mapper are read once as plain arithmetic: the comparison (`lowWide_lt_count_iff`), the multiplexer
(`multiplex_toNat`) and so the bare function, which has a value exactly where 2^B ≤ N
(`bucketIndex?_eq_some_iff`). The range, the key bits that matter and the fallback are then facts about
`indexByArithmetic`. The distribution splits a key below 2^(2B+1) into the pair of its two candidates, a bijection onto
a rectangle (`card_filter_mod_div`), and counts the pairs there (`card_filter_select`). SAMPLE on a seeded block is MAP
of STATE (`exec_sample_of_seeded`), and MAP does not see the response taken before it. -/

namespace Sys2Proof.Machine

/-! ## The two candidates and the selection -/

/-- 42_mapper R50: the unsigned comparison, in plain arithmetic. -/
theorem lowWide_lt_count_iff (key : Word) (b : Width) (n : Count) :
    lowWide key b < n.setWidth 64 ↔ key.toNat % 2 ^ (b.toNat + 1) < n.toNat := by
  rw [BitVec.lt_def, lowWide_toNat, BitVec.toNat_setWidth_of_le (by omega)]

theorem selector_eq_one_iff (key : Word) (b : Width) (n : Count) :
    selector key b n = 1#64 ↔ key.toNat % 2 ^ (b.toNat + 1) < n.toNat := by
  rw [← lowWide_lt_count_iff, selector]
  split_ifs with h
  · exact iff_of_true rfl h
  · exact iff_of_false (by decide) h

/-- Settles O24: the selector is 1 or 0, so one product of the blend is a candidate and the other is 0. -/
theorem blendEqualsMultiplexer : Obligations.BlendEqualsMultiplexer := by
  intro key b n
  unfold blend multiplex selector
  split_ifs
  · rw [BitVec.one_mul, BitVec.sub_self, BitVec.zero_mul, BitVec.add_zero]
  · rw [BitVec.zero_mul, BitVec.sub_zero, BitVec.one_mul, BitVec.zero_add]

/-- 42_mapper R50, R52: the multiplexer computes the index of plain arithmetic, within the contract or not. -/
theorem multiplex_toNat (key : Word) (b : Width) (n : Count) :
    (multiplex key b n).toNat = indexByArithmetic key.toNat b.toNat n.toNat := by
  simp only [multiplex, indexByArithmetic, lowWide_lt_count_iff]
  split_ifs
  · exact lowWide_toNat key b
  · exact lowShifted_toNat key b

/-- 42_mapper R51: a candidate that is not below N gives way to one below 2^B. -/
theorem indexByArithmetic_lt (key : Nat) {b n : Nat} (hle : 2 ^ b ≤ n) : indexByArithmetic key b n < n := by
  unfold indexByArithmetic
  split_ifs with hdirect
  · exact hdirect
  · exact Nat.lt_of_lt_of_le (Nat.mod_lt _ (Nat.two_pow_pos b)) hle

/-! ## The bare function -/

/-- 42_mapper R51: 2^B ≤ N is all of the contract. -/
theorem mapperContract_iff (b : Width) (n : Count) : mapperContract b n = true ↔ 2 ^ b.toNat ≤ n.toNat := by
  rw [mapperContract, Bool.and_eq_true, decide_eq_true_iff, decide_eq_true_iff]
  exact and_iff_right_of_imp (Nat.le_trans Nat.one_le_two_pow)

/-- 42_mapper R50: within the contract the value is the index of plain arithmetic. -/
theorem bucketIndex?_eq_some_iff (key : Word) {b : Width} {n : Count} (hle : 2 ^ b.toNat ≤ n.toNat) (r : Count) :
    bucketIndex? key b n = some r ↔ indexByArithmetic key.toNat b.toNat n.toNat = r.toNat := by
  have hfits : indexByArithmetic key.toNat b.toNat n.toNat < 2 ^ 32 :=
    Nat.lt_trans (indexByArithmetic_lt key.toNat hle) n.isLt
  rw [bucketIndex?, if_pos ((mapperContract_iff b n).mpr hle), Option.some_inj, blendEqualsMultiplexer,
    ← BitVec.toNat_inj, BitVec.toNat_setWidth, multiplex_toNat, Nat.mod_eq_of_lt hfits]

theorem bucketIndex?_eq_none {b : Width} {n : Count} (hlt : n.toNat < 2 ^ b.toNat) (key : Word) :
    bucketIndex? key b n = none :=
  if_neg fun h => Nat.not_le_of_lt hlt ((mapperContract_iff b n).mp h)

/-- Within the contract there is a value. -/
theorem exists_bucketIndex? (key : Word) {b : Width} {n : Count} (hle : 2 ^ b.toNat ≤ n.toNat) :
    ∃ r : Count, bucketIndex? key b n = some r ∧ r.toNat = indexByArithmetic key.toNat b.toNat n.toNat := by
  have hvalue : bucketIndex? key b n = some ((blend key b n).setWidth 32) :=
    if_pos ((mapperContract_iff b n).mpr hle)
  exact ⟨_, hvalue, ((bucketIndex?_eq_some_iff key hle _).mp hvalue).symm⟩

/-- Settles O23. -/
theorem bucketIndexValue : Obligations.BucketIndexValue :=
  fun key _ _ => ⟨fun _ hle => exists_bucketIndex? key hle, fun hlt => bucketIndex?_eq_none hlt key⟩

/-- Settles O25. -/
theorem bucketIndexBelowCount : Obligations.BucketIndexBelowCount := by
  intro key b n _ hle
  obtain ⟨r, hvalue, hr⟩ := exists_bucketIndex? key hle
  exact ⟨r, hvalue, hr ▸ indexByArithmetic_lt key.toNat hle⟩

/-! ## The key bits that matter -/

/-- The keys of 2B + 1 bits are as many as the pairs of a first and a second candidate. -/
theorem two_pow_key_eq_mul (b : Nat) : 2 ^ (2 * b + 1) = 2 ^ (b + 1) * 2 ^ b := by ring

/-- 42_mapper R53: both candidates lie in key[2B:0]. -/
theorem indexByArithmetic_mod (key b n : Nat) :
    indexByArithmetic (key % 2 ^ (2 * b + 1)) b n = indexByArithmetic key b n := by
  have hwide : key % 2 ^ (2 * b + 1) % 2 ^ (b + 1) = key % 2 ^ (b + 1) :=
    Nat.mod_mod_of_dvd key (two_pow_key_eq_mul b ▸ Nat.dvd_mul_right _ _)
  have hshifted : key % 2 ^ (2 * b + 1) / 2 ^ (b + 1) = key / 2 ^ (b + 1) % 2 ^ b := by
    rw [two_pow_key_eq_mul b, Nat.mod_mul_right_div_self]
  rw [indexByArithmetic, indexByArithmetic, hwide, hshifted, Nat.mod_mod]

/-- Words with the same k lowest bits are congruent modulo 2^k. -/
theorem toNat_mod_two_pow_eq {x y : Word} {k : Nat} (h : ∀ i, i < k → x.getLsbD i = y.getLsbD i) :
    x.toNat % 2 ^ k = y.toNat % 2 ^ k := by
  apply Nat.eq_of_testBit_eq
  intro i
  rw [Nat.testBit_mod_two_pow, Nat.testBit_mod_two_pow]
  by_cases hi : i < k
  · rw [BitVec.testBit_toNat, BitVec.testBit_toNat, h i hi]
  · rw [decide_eq_false hi, Bool.false_and, Bool.false_and]

/-- Settles O26: the contract does not look at the key, and the index looks at its low bits. -/
theorem onlyLowKeyBitsMatter : Obligations.OnlyLowKeyBitsMatter := by
  intro key other b n hagree
  by_cases hle : 2 ^ b.toNat ≤ n.toNat
  · obtain ⟨r, hvalue, hr⟩ := exists_bucketIndex? other hle
    have hlow : key.toNat % 2 ^ (2 * b.toNat + 1) = other.toNat % 2 ^ (2 * b.toNat + 1) :=
      toNat_mod_two_pow_eq fun i hi => hagree i (Nat.le_of_lt_succ hi)
    rw [hvalue, bucketIndex?_eq_some_iff key hle, ← indexByArithmetic_mod, hlow, indexByArithmetic_mod, hr]
  · have hlt : n.toNat < 2 ^ b.toNat := Nat.lt_of_not_le hle
    rw [bucketIndex?_eq_none hlt, bucketIndex?_eq_none hlt]

/-! ## The fallback -/

/-- The top bit of the k + 1 lowest is 1 exactly when together they are at least 2^k. -/
theorem two_pow_le_mod_iff_testBit (x k : Nat) : 2 ^ k ≤ x % 2 ^ (k + 1) ↔ x.testBit k = true := by
  have hbit : (x % 2 ^ (k + 1)).testBit k = x.testBit k := by simp [Nat.testBit_mod_two_pow]
  rw [← hbit]
  refine ⟨fun hle => ?_, Nat.ge_two_pow_of_testBit⟩
  exact Nat.testBit_of_two_pow_le_and_two_pow_add_one_gt hle (Nat.mod_lt x (Nat.two_pow_pos _))

/-- 42_mapper R54: where the first candidate is not below N, the index is key[2B:B+1]. -/
theorem indexByArithmetic_of_fallback {key b n : Nat} (h : n ≤ key % 2 ^ (b + 1)) :
    indexByArithmetic key b n = key / 2 ^ (b + 1) % 2 ^ b :=
  if_neg (Nat.not_lt_of_le h)

/-- Settles O27: the key of all 1 bits takes the fallback whatever N is, and below 1 there is only the index 0. -/
theorem fallbackCondition : Obligations.FallbackCondition := by
  refine ⟨fun key b n hn => ?_, fun b n h => ⟨BitVec.allOnes 64, ?_⟩, fun key => ?_⟩
  · have hfallback : n.toNat ≤ key.toNat % 2 ^ (b.toNat + 1) ↔ key.getLsbD b.toNat = true :=
      hn ▸ two_pow_le_mod_iff_testBit key.toNat b.toNat
    refine ⟨hfallback, fun hbit => ?_⟩
    obtain ⟨r, hvalue, hr⟩ := exists_bucketIndex? key hn.ge
    exact ⟨r, hvalue, hr.trans (indexByArithmetic_of_fallback (hfallback.mpr hbit))⟩
  · have hmask : (lowWide (BitVec.allOnes 64) b).toNat = 2 ^ (b.toNat + 1) - 1 := by
      rw [lowWide, BitVec.allOnes_and, maskOf_toNat (by omega)]
    rw [hmask]
    exact Nat.le_sub_one_of_lt h.2
  · have hle : 2 ^ (0#5).toNat ≤ (1#32).toNat := by decide
    rw [bucketIndex?_eq_some_iff key hle]
    exact Nat.lt_one_iff.mp (indexByArithmetic_lt key.toNat hle)

/-! ## The distribution -/

/-- The numbers below m * k are the pairs of a remainder below m and a quotient below k. -/
theorem card_filter_mod_div (p : Nat → Nat → Prop) [∀ a q, Decidable (p a q)] (m k : Nat) (hm : 0 < m) :
    ((Finset.range (m * k)).filter (fun x => p (x % m) (x / m))).card =
      ((Finset.range m ×ˢ Finset.range k).filter (fun aq => p aq.1 aq.2)).card := by
  refine Finset.card_nbij' (fun x => (x % m, x / m)) (fun aq => aq.1 + m * aq.2) ?_ ?_ ?_ ?_
  · intro x hx
    simp only [Finset.mem_coe, Finset.mem_filter, Finset.mem_product, Finset.mem_range] at hx ⊢
    exact ⟨⟨Nat.mod_lt x hm, Nat.div_lt_of_lt_mul hx.1⟩, hx.2⟩
  · rintro ⟨a, q⟩ haq
    simp only [Finset.mem_coe, Finset.mem_filter, Finset.mem_product, Finset.mem_range] at haq ⊢
    obtain ⟨⟨ha, hq⟩, hp⟩ := haq
    rw [Nat.add_mul_mod_self_left, Nat.mod_eq_of_lt ha, Nat.add_mul_div_left a q hm, Nat.div_eq_of_lt ha,
      Nat.zero_add]
    refine ⟨?_, hp⟩
    calc a + m * q < m + m * q := Nat.add_lt_add_right ha _
      _ = m * (q + 1) := by ring
      _ ≤ m * k := Nat.mul_le_mul_left m hq
  · intro x _
    exact Nat.mod_add_div x m
  · rintro ⟨a, q⟩ haq
    simp only [Finset.mem_coe, Finset.mem_filter, Finset.mem_product, Finset.mem_range] at haq
    obtain ⟨⟨ha, -⟩, -⟩ := haq
    simp [Nat.add_mul_div_left a q hm, Nat.div_eq_of_lt ha, Nat.mod_eq_of_lt ha]

/-- A selection from pairs answers i < n where the first candidate is i, whatever the second, and where the second is i
beside a first that is not below n. -/
theorem card_filter_select {i n m k : Nat} (hi : i < n) (hn : n ≤ m) :
    ((Finset.range m ×ˢ Finset.range k).filter (fun aq => (if aq.1 < n then aq.1 else aq.2) = i)).card =
      k + if i < k then m - n else 0 := by
  have hpieces : (Finset.range m ×ˢ Finset.range k).filter (fun aq => (if aq.1 < n then aq.1 else aq.2) = i) =
      {i} ×ˢ Finset.range k ∪ Finset.Ico n m ×ˢ (Finset.range k).filter (· = i) := by
    ext ⟨a, q⟩
    simp only [Finset.mem_filter, Finset.mem_union, Finset.mem_product, Finset.mem_range, Finset.mem_singleton,
      Finset.mem_Ico]
    split_ifs <;> omega
  have hdisjoint : Disjoint ({i} ×ˢ Finset.range k) (Finset.Ico n m ×ˢ (Finset.range k).filter (· = i)) :=
    Finset.disjoint_product.mpr <| .inl <| Finset.disjoint_singleton_left.mpr fun h =>
      Nat.not_le_of_lt hi (Finset.mem_Ico.mp h).1
  have hrow : ((Finset.range k).filter (· = i)).card = if i < k then 1 else 0 := by
    rw [Finset.filter_eq', apply_ite Finset.card, Finset.card_singleton, Finset.card_empty]
    simp only [Finset.mem_range]
  rw [hpieces, Finset.card_union_of_disjoint hdisjoint, Finset.card_product, Finset.card_product,
    Finset.card_singleton, Finset.card_range, Nat.card_Ico, hrow, Nat.one_mul, mul_ite, Nat.mul_one, Nat.mul_zero]

/-- The pairs whose first candidate is below n. -/
theorem card_filter_direct {n m : Nat} (k : Nat) (hn : n ≤ m) :
    ((Finset.range m ×ˢ Finset.range k).filter (fun aq => aq.1 < n)).card = n * k := by
  have hrows : (Finset.range m ×ˢ Finset.range k).filter (fun aq => aq.1 < n) = Finset.range n ×ˢ Finset.range k := by
    ext ⟨a, q⟩
    simp only [Finset.mem_filter, Finset.mem_product, Finset.mem_range]
    omega
  rw [hrows, Finset.card_product, Finset.card_range, Finset.card_range]

/-- A key of 2B + 1 bits is a word. -/
theorem toNat_key_of_lt {b : Width} {k : Nat} (hk : k < 2 ^ (2 * b.toNat + 1)) : (BitVec.ofNat 64 k).toNat = k :=
  Nat.mod_eq_of_lt (Nat.lt_of_lt_of_le hk (Nat.pow_le_pow_right Nat.two_pos (by omega)))

/-- 42_mapper R55: above its first candidate a key of 2B + 1 bits holds the second and nothing else. -/
theorem indexByArithmetic_of_lt {key b : Nat} (n : Nat) (hkey : key < 2 ^ (2 * b + 1)) :
    indexByArithmetic key b n = if key % 2 ^ (b + 1) < n then key % 2 ^ (b + 1) else key / 2 ^ (b + 1) := by
  rw [indexByArithmetic, Nat.mod_eq_of_lt (Nat.div_lt_of_lt_mul (two_pow_key_eq_mul b ▸ hkey))]

/-- Settles O28: each count over keys is a count over the pairs of their two candidates. -/
theorem indexDistribution : Obligations.IndexDistribution := by
  intro n b h
  have hwide : 0 < 2 ^ (b.toNat + 1) := Nat.two_pow_pos _
  refine ⟨fun i hi => ?_, ?_⟩
  · have hindex : ∀ k ∈ Finset.range (2 ^ (2 * b.toNat + 1)),
        (bucketIndex? (BitVec.ofNat 64 k) b n = some (BitVec.ofNat 32 i) ↔
          (if k % 2 ^ (b.toNat + 1) < n.toNat then k % 2 ^ (b.toNat + 1) else k / 2 ^ (b.toNat + 1)) = i) := by
      intro k hk
      have hk := Finset.mem_range.mp hk
      rw [bucketIndex?_eq_some_iff _ h.1, toNat_key_of_lt hk, indexByArithmetic_of_lt _ hk,
        BitVec.toNat_ofNat, Nat.mod_eq_of_lt (Nat.lt_trans hi n.isLt)]
    rw [Finset.filter_congr hindex, two_pow_key_eq_mul,
      card_filter_mod_div (fun a q => (if a < n.toNat then a else q) = i) _ _ hwide, card_filter_select hi h.2.le]
  · have hdirect : ∀ k ∈ Finset.range (2 ^ (2 * b.toNat + 1)),
        (selector (BitVec.ofNat 64 k) b n = 1#64 ↔ k % 2 ^ (b.toNat + 1) < n.toNat) := by
      intro k hk
      rw [selector_eq_one_iff, toNat_key_of_lt (Finset.mem_range.mp hk)]
    rw [Finset.filter_congr hdirect, two_pow_key_eq_mul, card_filter_mod_div (fun a _ => a < n.toNat) _ _ hwide,
      card_filter_direct _ h.2.le]

/-! ## MAP and SAMPLE -/

/-- 60_exceptions R59, for NOT_CONFIGURED: the rejection's entry, field by field. -/
theorem reject_notConfigured (s : State) : reject .notConfigured s = rejectedWith 6 s := rfl

/-- 42_mapper R56: MAP before the first accepted SETN. -/
theorem exec_map_of_unconfigured (key : Word) {s : State} (hzero : s.ncfg = 0#32) :
    exec (.map key) s = .next (rejectedWith 6 s) := by
  have hrejected : rejectionOf (.map key) s = some .notConfigured := if_pos hzero
  rw [exec_of_rejection hrejected, raise, reject_notConfigured]

/-- 42_mapper R56: MAP on a configured block. -/
theorem exec_map_of_configured (key : Word) {s : State} (hconfigured : s.ncfg ≠ 0#32) :
    exec (.map key) s = .next (answeredWith ((bucketIndex key s.bcfg s.ncfg).setWidth 64) s) := by
  have haccepted : configuredCheck s = none := if_neg hconfigured
  rw [exec, execMap, haccepted, guarded_none, respond_eq_answeredWith]

/-- 42_mapper R56: within the contract of `bucket_index` a command's index is that of plain arithmetic, below N. -/
theorem bucketIndex_toNat (key : Word) {b : Width} {n : Count} (hle : 2 ^ b.toNat ≤ n.toNat) :
    (bucketIndex key b n).toNat = indexByArithmetic key.toNat b.toNat n.toNat ∧
      (bucketIndex key b n).toNat < n.toNat := by
  obtain ⟨r, hvalue, hr⟩ := exists_bucketIndex? key hle
  rw [bucketIndex_of_some hvalue, hr]
  exact ⟨rfl, indexByArithmetic_lt key.toNat hle⟩

/-- Settles O29. -/
theorem mapResultAndFrame : Obligations.MapResultAndFrame :=
  fun key _ => ⟨decode_encode (.map key), exec_map_of_unconfigured key, fun hconfigured =>
    ⟨_, exec_map_of_configured key hconfigured, bucketIndex_toNat key⟩⟩

/-- 42_mapper R57: SAMPLE on a seeded block is MAP of STATE. -/
theorem exec_sample_of_seeded {s : State} (hseeded : s.state ≠ 0#64) : exec .sample s = exec (.map s.state) s := by
  rw [exec, exec, execSample, execMap, sampleCheck, seededCheck_eq_none_iff.mpr hseeded, Option.none_or]

/-- 42_mapper R57, 60_exceptions R61: the first condition of SAMPLE. -/
theorem exec_sample_of_unseeded {s : State} (hzero : s.state = 0#64) :
    exec .sample s = .next (rejectedWith 5 s) := by
  have hunseeded : seededCheck s = some .notSeeded := if_pos hzero
  have hrejected : rejectionOf .sample s = some .notSeeded := by
    rw [rejectionOf, sampleCheck, hunseeded, Option.some_or]
  rw [exec_of_rejection hrejected, raise, reject_notSeeded]

/-- Settles O30: on a seeded block the clauses are those of MAP. -/
theorem sampleResultAndFrame : Obligations.SampleResultAndFrame := by
  intro arg s
  refine ⟨by simp [decode], exec_sample_of_unseeded, fun hseeded hzero => ?_, fun hseeded hconfigured =>
    ⟨bucketIndex s.state s.bcfg s.ncfg, ?_, bucketIndex_toNat s.state⟩⟩
  · rw [exec_sample_of_seeded hseeded, exec_map_of_unconfigured _ hzero]
  · rw [exec_sample_of_seeded hseeded, exec_map_of_configured _ hconfigured]

/-! ## READS, then MAP -/

/-- 41_generator R49: READS is always accepted. -/
theorem exec_reads (s : State) : exec .reads s = .next (answeredWith s.state s) := by
  rw [exec, execReads, respond_eq_answeredWith]

/-- 60_exceptions R62, 42_mapper R56: an answer to an earlier command, once taken, leaves MAP as it was. -/
theorem exec_map_takeResponse (key result : Word) (s : State) :
    exec (.map key) (takeResponse (answeredWith result s)) = exec (.map key) s := by
  by_cases hzero : s.ncfg = 0#32
  · rw [exec_map_of_unconfigured key hzero]
    exact exec_map_of_unconfigured key (s := takeResponse (answeredWith result s)) hzero
  · rw [exec_map_of_configured key hzero]
    exact exec_map_of_configured key (s := takeResponse (answeredWith result s)) hzero

/-- The transaction of a command on an idle block, from the command's meaning. -/
theorem transact_encode_of_exec {i : Instr} {s t : State} {r : Response} (hidle : s.port = .idle)
    (hexec : exec i s = .next t) (hport : t.port = .answering r) :
    transact (encode i) s = some (r, takeResponse t) := by
  rw [← performCommand_of_command (decode_encode i)] at hexec
  exact transact_eq_some_iff.mpr ⟨hidle, t, hexec, hport, rfl⟩

/-- Every command has a meaning, with a response. -/
theorem exec_completes (i : Instr) (s : State) : ∃ t r, exec i s = .next t ∧ t.port = .answering r := by
  rw [← performCommand_of_command (decode_encode i)]
  exact performCommand_completes (encode i) s

/-- 42_mapper R57: on a seeded block SAMPLE ends, with its response, where MAP of STATE ends after READS. -/
theorem exec_sample_eq_reads_then_map {s : State} (hseeded : s.state ≠ 0#64) :
    ∃ t r, exec .sample s = .next t ∧ t.port = .answering r ∧
      exec (.map s.state) (takeResponse (answeredWith s.state s)) = .next t := by
  obtain ⟨t, r, hsample, hport⟩ := exec_completes .sample s
  refine ⟨t, r, hsample, hport, ?_⟩
  rw [exec_map_takeResponse, ← exec_sample_of_seeded hseeded, hsample]

/-- Settles O31: the transactions of the run are the two meanings, each with its response taken. -/
theorem sampleEqualsReadsThenMap : Obligations.SampleEqualsReadsThenMap := by
  refine ⟨fun s hseeded => ?_, fun s hseeded hidle => ?_⟩
  · obtain ⟨t, _, hsample, _, hmap⟩ := exec_sample_eq_reads_then_map hseeded
    exact ⟨t, hsample, exec_reads s, hmap⟩
  · obtain ⟨t, r, hsample, hport, hmap⟩ := exec_sample_eq_reads_then_map hseeded
    have hreads := transact_encode_of_exec hidle (exec_reads s) rfl
    refine ⟨r, takeResponse t, transact_encode_of_exec hidle hsample hport, ?_⟩
    rw [session_cons_of_transact hreads, session_cons_of_transact (transact_encode_of_exec rfl hmap hport)]
    rfl

end Sys2Proof.Machine


/-! # Rejections: the statements of spec/60_exceptions.md

The cause of a word is decided before anything is written (`causeOf`), and holds exactly under its condition in the
table of R60 (`causeOf_eq_some_iff`). A word with a cause is rejected for it, and any other is answered OK
(`Performed.rejected_or_accepted`): the two statements about rejections follow from these two facts. That the
registers can be read back is that the fields of the word READC answers with determine them. -/

namespace Sys2Proof.Machine

/-! ## The conditions of the commands, by their cause -/

theorem countCheck_eq_some_iff {n : Word} {cause : Cause} :
    countCheck n = some cause ↔ (cause = .argRange ∧ 2 ^ 32 ≤ n.toNat) ∨ (cause = .zeroN ∧ n = 0#64) := by
  rw [countCheck_eq, ← BitVec.toNat_inj, BitVec.toNat_zero]
  split_ifs with hrange hzero
  · have hpos : n.toNat ≠ 0 := by omega
    simp only [Option.some_inj, hrange, hpos, and_true, and_false, or_false, eq_comm]
  · simp [hzero, eq_comm]
  · simp only [hrange, hzero, and_false, or_false]

/-- A command with one condition is rejected for its cause exactly where the condition holds. -/
theorem condition_eq_some_iff {p : Prop} [Decidable p] {raised cause : Cause} :
    (if p then some raised else none) = some cause ↔ cause = raised ∧ p := by
  rw [Option.ite_none_right_eq_some, Option.some_inj, and_comm, eq_comm (b := cause)]

theorem seedCheck_eq_some_iff {v : Word} {cause : Cause} :
    seedCheck v = some cause ↔ cause = .zeroSeed ∧ v = 0#64 :=
  condition_eq_some_iff

theorem seededCheck_eq_some_iff {s : State} {cause : Cause} :
    seededCheck s = some cause ↔ cause = .notSeeded ∧ s.state = 0#64 :=
  condition_eq_some_iff

theorem configuredCheck_eq_some_iff {s : State} {cause : Cause} :
    configuredCheck s = some cause ↔ cause = .notConfigured ∧ s.ncfg = 0#32 :=
  condition_eq_some_iff

/-- 60_exceptions R61: SAMPLE is NOT_CONFIGURED only on a seeded block. -/
theorem sampleCheck_eq_some_iff {s : State} {cause : Cause} :
    sampleCheck s = some cause ↔
      (cause = .notSeeded ∧ s.state = 0#64) ∨ (cause = .notConfigured ∧ s.state ≠ 0#64 ∧ s.ncfg = 0#32) := by
  rw [sampleCheck, Option.or_eq_some_iff, seededCheck_eq_some_iff, seededCheck_eq_none_iff,
    configuredCheck_eq_some_iff, and_left_comm]

/-! ## The cause of a command word -/

/-- The cause a command word is rejected for, if any: its command's, or ILLEGAL_OP (60_exceptions R58, R60). -/
def causeOf (c : Command) (s : State) : Option Cause :=
  match decode c with
  | .command i => rejectionOf i s
  | .reserved _ => some .illegalOp

theorem causeOf_of_command {c : Command} {i : Instr} (hdecode : decode c = .command i) (s : State) :
    causeOf c s = rejectionOf i s := by
  simp [causeOf, hdecode]

theorem causeOf_of_reserved {c : Command} {op : Opcode} (hdecode : decode c = .reserved op) (s : State) :
    causeOf c s = some .illegalOp := by
  simp [causeOf, hdecode]

/-- The table of 60_exceptions R60: for each cause the commands that raise it, by their ops, and the condition. Where
SAMPLE meets two, R61 puts NOT_SEEDED first. -/
def RejectionCondition (c : Command) (s : State) : Cause → Prop
  | .illegalOp => opOf c ∉ [0x10#8, 0x11#8, 0x12#8, 0x20#8, 0x21#8, 0x22#8, 0x30#8, 0x31#8]
  | .argRange => (opOf c = 0x10#8 ∨ opOf c = 0x11#8) ∧ 2 ^ 32 ≤ (argOf c).toNat
  | .zeroN => (opOf c = 0x10#8 ∨ opOf c = 0x11#8) ∧ argOf c = 0#64
  | .zeroSeed => opOf c = 0x20#8 ∧ argOf c = 0#64
  | .notSeeded => (opOf c = 0x21#8 ∨ opOf c = 0x31#8) ∧ s.state = 0#64
  | .notConfigured => (opOf c = 0x30#8 ∨ (opOf c = 0x31#8 ∧ s.state ≠ 0#64)) ∧ s.ncfg = 0#32

/-- 60_exceptions R60: a reserved op raises ILLEGAL_OP, and none of the causes of the commands. -/
theorem rejectionCondition_of_reserved {c : Command} {op : Opcode} (hdecode : decode c = .reserved op) (s : State)
    (cause : Cause) : RejectionCondition c s cause ↔ cause = .illegalOp := by
  obtain ⟨-, hop⟩ := decode_reserved_iff.mp hdecode
  cases cause with
  | illegalOp => exact iff_of_true hop rfl
  | argRange | zeroN | zeroSeed | notSeeded | notConfigured => simp_all [RejectionCondition]

/-- 60_exceptions R60: the conditions of a command are those of the table at its op. -/
theorem rejectionOf_eq_some_iff {c : Command} {i : Instr} (hdecode : decode c = .command i) (s : State)
    (cause : Cause) : rejectionOf i s = some cause ↔ RejectionCondition c s cause := by
  obtain ⟨hop, rfl⟩ | ⟨hop, rfl⟩ | ⟨hop, rfl⟩ | ⟨hop, rfl⟩ | ⟨hop, rfl⟩ | ⟨hop, rfl⟩ | ⟨hop, rfl⟩ | ⟨hop, rfl⟩ :=
    decode_command_cases hdecode
  · rw [rejectionOf, countCheck_eq_some_iff]
    cases cause <;> simp [RejectionCondition, hop]
  · rw [rejectionOf, countCheck_eq_some_iff]
    cases cause <;> simp [RejectionCondition, hop]
  · rw [rejectionOf]
    cases cause <;> simp [RejectionCondition, hop]
  · rw [rejectionOf, seedCheck_eq_some_iff]
    cases cause <;> simp [RejectionCondition, hop]
  · rw [rejectionOf, seededCheck_eq_some_iff]
    cases cause <;> simp [RejectionCondition, hop]
  · rw [rejectionOf]
    cases cause <;> simp [RejectionCondition, hop]
  · rw [rejectionOf, configuredCheck_eq_some_iff]
    cases cause <;> simp [RejectionCondition, hop]
  · rw [rejectionOf, sampleCheck_eq_some_iff]
    cases cause <;> simp [RejectionCondition, hop]

/-- 60_exceptions R60: a word is rejected for a cause exactly under the cause's condition in the table. -/
theorem causeOf_eq_some_iff (c : Command) (s : State) (cause : Cause) :
    causeOf c s = some cause ↔ RejectionCondition c s cause := by
  cases hdecode : decode c with
  | command i => rw [causeOf_of_command hdecode, rejectionOf_eq_some_iff hdecode]
  | reserved op =>
    rw [causeOf_of_reserved hdecode, rejectionCondition_of_reserved hdecode, Option.some_inj, eq_comm]

/-! ## What a cause does to the answer -/

/-- 60_exceptions R58, R59: a word with a cause is rejected for it; any other is answered OK and leaves ERRS alone. -/
theorem Performed.rejected_or_accepted {c : Command} {s t : State} (h : Performed c s t) :
    (∃ cause, causeOf c s = some cause ∧ t = reject cause s) ∨
      (causeOf c s = none ∧ t.errs = s.errs ∧
        ∃ result, t.port = .answering { status := statusOk, result := result }) := by
  cases h with
  | rejected cause hcause ht =>
    obtain ⟨op, hdecode, rfl⟩ | ⟨i, hdecode, hi⟩ := hcause
    · exact .inl ⟨_, causeOf_of_reserved hdecode s, ht⟩
    · exact .inl ⟨cause, (causeOf_of_command hdecode s).trans hi, ht⟩
  | read i result hdecode haccepted ht =>
    subst ht
    exact .inr ⟨(causeOf_of_command hdecode s).trans haccepted, rfl, _, rfl⟩
  | configure n hdecode haccepted ht =>
    subst ht
    exact .inr ⟨(causeOf_of_command hdecode s).trans haccepted, rfl, _, rfl⟩
  | seed v hdecode haccepted ht =>
    subst ht
    exact .inr ⟨(causeOf_of_command hdecode s).trans haccepted, rfl, _, rfl⟩
  | advance hdecode haccepted ht =>
    subst ht
    exact .inr ⟨(causeOf_of_command hdecode s).trans haccepted, rfl, _, rfl⟩

/-- 30_encoding R27: distinct causes have distinct codes. -/
theorem causeCode_injective : Function.Injective causeCode := by
  have hinverse : Function.LeftInverse (fun code => Cause.ofNat (code.toNat - 1)) causeCode := by
    intro cause
    cases cause <;> rfl
  exact hinverse.injective

/-- 30_encoding R27: code 0 is no cause's. -/
theorem causeCode_ne_statusOk (cause : Cause) : causeCode cause ≠ statusOk := by
  cases cause <;> decide

/-- 30_encoding R27: the status answered is the code of the word's cause, and 0 where it has none. -/
theorem status_eq_causeCode_iff {c : Command} {s t : State} {r : Response} (h : performCommand c s = .next t)
    (hport : t.port = .answering r) (cause : Cause) : r.status = causeCode cause ↔ causeOf c s = some cause := by
  obtain ⟨raised, hcause, rfl⟩ | ⟨hcause, -, result, hanswer⟩ :=
    (performed_of_performCommand h).rejected_or_accepted
  · cases hport
    rw [hcause, causeCode_injective.eq_iff, Option.some_inj]
  · cases hanswer.symm.trans hport
    rw [hcause]
    exact iff_of_false (causeCode_ne_statusOk cause).symm nofun

/-- 60_exceptions R59: the entry of any rejection, field by field. -/
theorem reject_eq_rejectedWith (cause : Cause) (s : State) :
    reject cause s = rejectedWith (causeCode cause).toNat s := by
  cases cause with
  | illegalOp => exact reject_illegalOp s
  | argRange => exact reject_argRange s
  | zeroN => exact reject_zeroN s
  | zeroSeed => exact reject_zeroSeed s
  | notSeeded => exact reject_notSeeded s
  | notConfigured => exact reject_notConfigured s

/-- Settles O32: each status is the code of the word's cause, and the causes stand under their conditions in the
table. -/
theorem statusSaysExactlyTheCause : Obligations.StatusSaysExactlyTheCause := by
  intro c s
  obtain ⟨t, r, hperform, hport⟩ := performCommand_completes c s
  have hstatus (cause : Cause) : r.status = causeCode cause ↔ RejectionCondition c s cause :=
    (status_eq_causeCode_iff hperform hport cause).trans (causeOf_eq_some_iff c s cause)
  have hlegal : LegalPort t.port := (performed_of_performCommand hperform).legalPort
  rw [hport] at hlegal
  exact ⟨t, r, hperform, hport, hstatus .illegalOp, hstatus .argRange, hstatus .zeroN, hstatus .zeroSeed,
    hstatus .notSeeded, hstatus .notConfigured, hlegal.1⟩

/-- Settles O33: a status other than 0 comes from a rejection's entry alone. -/
theorem rejectionIsPrecise : Obligations.RejectionIsPrecise := by
  intro c s
  obtain ⟨t, r, hperform, hport⟩ := performCommand_completes c s
  refine ⟨t, r, hperform, hport, ?_⟩
  obtain ⟨cause, -, rfl⟩ | ⟨-, herrs, result, hanswer⟩ :=
    (performed_of_performCommand hperform).rejected_or_accepted
  · cases hport
    exact ⟨fun _ => reject_eq_rejectedWith cause s, fun hok => absurd hok (causeCode_ne_statusOk cause)⟩
  · cases hanswer.symm.trans hport
    exact ⟨fun hne => absurd rfl hne, fun _ => herrs⟩

/-! ## Reading the registers back -/

/-- 40_bitwidth R41, 10_state R14: with the hardwired bits 0, READC shows the whole of ERRS. -/
theorem ErrorsHardwired.getLsbD_configWord {s : State} (hs : ErrorsHardwired s) {i : Nat} (hi : i < 8) :
    (configWord s).getLsbD (40 + i) = s.errs.getLsbD i := by
  obtain ⟨h0, h7⟩ := hs
  rw [configWord_errs s hi]
  by_cases hwritten : 1 ≤ i ∧ i ≤ 6
  · rw [decide_eq_true hwritten, Bool.true_and]
  · obtain rfl | rfl : i = 0 ∨ i = 7 := by omega
    · rw [h0, Bool.and_false]
    · rw [h7, Bool.and_false]

/-- Settles O57: READS answers with STATE, and the word of READC holds the other three registers. -/
theorem registersAreObservable : Obligations.RegistersAreObservable := by
  intro s u s1 u1 s2 u2 hs hu hs1 hu1 hreads hs2 hu2 hreadc
  rw [exec_reads] at hs1 hu1
  rw [exec_readc] at hs2 hu2
  cases hs1; cases hu1; cases hs2; cases hu2
  have hstate : s.state = u.state := by simpa [answeredWith] using hreads
  have hword : configWord s = configWord u := by simpa [answeredWith] using hreadc
  refine ⟨hstate, ?_, ?_, BitVec.eq_of_getLsbD_eq fun i hi => ?_⟩
  · rw [← configWord_ncfg s, hword, configWord_ncfg]
  · rw [← configWord_bcfg s, hword, configWord_bcfg]
  · rw [← hs.errors.getLsbD_configWord hi, hword, hu.errors.getLsbD_configWord hi]

end Sys2Proof.Machine


/-! # Reset, the port and latency: the statements of spec/70_reset_and_hazards.md

One equation for each control state of the port says what an edge does (`step_of_rst`, `step_of_idle` and the others),
and one says what the port shows (`outputs_of_idle` and the others); the statements about single edges follow from
these. The latency of a command is a function of its opcode and of accept or reject (`instrWait_eq_waitOfOpcode`). A
command in flight is followed edge by edge (`steps_of_busy`) to the edge that performs it. The two statements about boot
and SETN compose transactions of accepted commands (`transact_of_accepted`). -/

namespace Sys2Proof.Machine

/-! ## What an edge does, by the control state of the port -/

/-- 70_reset R70, R71: reset wins over everything. -/
theorem step_of_rst {s : State} (hrst : (pinsNow s).rst = true) : step s = .next (resetEdge (consumePins s)) :=
  if_pos hrst

section NoReset

variable {s : State} (hrst : (pinsNow s).rst = false)

include hrst

theorem step_of_not_rst : step s = runEdge (pinsNow s) (consumePins s) := by
  rw [step, clockEdge, hrst, if_neg Bool.false_ne_true]

/-- 70_reset R72: before the first reset an edge does nothing, or refuses the command it is offered. -/
theorem step_of_unreset (hport : s.port = .unreset) :
    step s = if (pinsNow s).cmdValid then .refused .commandBeforeReset else .next (consumePins s) :=
  (step_of_not_rst hrst).trans (runEdge_unreset _ hport)

/-- 70_reset R74, R75 point 1: an idle block accepts the command it is offered. -/
theorem step_of_idle (hport : s.port = .idle) :
    step s = if (pinsNow s).cmdValid then .next (acceptCommand (offeredCommand (pinsNow s)) (consumePins s))
      else .next (consumePins s) :=
  (step_of_not_rst hrst).trans (runEdge_idle _ hport)

/-- 70_reset R75 point 3: one edge of the latency goes by. -/
theorem step_of_waiting {c : Command} {k : Nat} (hport : s.port = .busy c (k + 1)) :
    step s = .next ((consumePins s).withPort (.busy c k)) :=
  (step_of_not_rst hrst).trans (runEdge_waiting _ hport)

/-- 70_reset R75 point 3: the edge that answers the command performs it. -/
theorem step_of_performing {c : Command} (hport : s.port = .busy c 0) :
    step s = performCommand c (consumePins s) :=
  (step_of_not_rst hrst).trans (runEdge_performing _ hport)

/-- 70_reset R75 point 4: a response stays until it is taken. -/
theorem step_of_answering {r : Response} (hport : s.port = .answering r) :
    step s = if (pinsNow s).rspReady then .next (takeResponse (consumePins s)) else .next (consumePins s) :=
  (step_of_not_rst hrst).trans (runEdge_answering _ hport)

end NoReset

/-! ## What the port shows, by its control state -/

section Shown

variable {s : State} (rst : Bool)

theorem outputs_of_unreset (hport : s.port = .unreset) : outputs s rst = none := by
  rw [outputs, hport]

theorem outputs_of_idle (hport : s.port = .idle) : outputs s rst = some { cmdReady := !rst, rsp := none } := by
  rw [outputs, hport]

theorem outputs_of_busy {c : Command} {k : Nat} (hport : s.port = .busy c k) :
    outputs s rst = some { cmdReady := false, rsp := none } := by
  rw [outputs, hport]

theorem outputs_of_answering {r : Response} (hport : s.port = .answering r) :
    outputs s rst = some { cmdReady := false, rsp := if rst then none else some r } := by
  rw [outputs, hport]

end Shown

/-- 70_reset R71: while `rst` = 1 a block that was once reset shows neither `cmd_ready` nor a response. -/
theorem outputs_in_reset {s : State} (hport : s.port ≠ .unreset) :
    outputs s true = some { cmdReady := false, rsp := none } := by
  cases h : s.port with
  | unreset => exact absurd h hport
  | idle => exact outputs_of_idle true h
  | busy c k => exact outputs_of_busy true h
  | answering r => exact outputs_of_answering true h

/-- 70_reset R75 point 2: `cmd_ready` = 1 exactly when the block is idle and out of reset. -/
theorem cmdReady_iff {s : State} {rst : Bool} {o : Outputs} (ho : outputs s rst = some o) :
    o.cmdReady = true ↔ s.port = .idle ∧ rst = false := by
  cases h : s.port with
  | unreset =>
    rw [outputs_of_unreset rst h] at ho
    cases ho
  | idle =>
    rw [outputs_of_idle rst h] at ho
    cases ho
    simp
  | busy c k =>
    rw [outputs_of_busy rst h] at ho
    cases ho
    simp
  | answering r =>
    rw [outputs_of_answering rst h] at ho
    cases ho
    simp

/-! ## The statements about single edges -/

/-- Settles O40. -/
theorem resetEdgeResetsEverything : Obligations.ResetEdgeResetsEverything :=
  ⟨fun _ hrst => ⟨_, step_of_rst hrst, rfl, rfl, rfl, rfl, rfl, rfl, outputs_of_idle false rfl⟩,
    fun _ => outputs_in_reset⟩

/-- Settles O41. -/
theorem idleBlockKeepsItsRegisters : Obligations.IdleBlockKeepsItsRegisters := by
  intro s hport hrst hvalid
  rw [step_of_idle hrst hport, hvalid]
  rfl

/-- Settles O43. -/
theorem responseHeldUntilTaken : Obligations.ResponseHeldUntilTaken := by
  intro s r hport hrst
  refine ⟨outputs_of_answering false hport, fun hready => ?_, fun hready => ?_⟩
  · rw [step_of_answering hrst hport, hready]
    rfl
  · rw [step_of_answering hrst hport, hready]
    rfl

/-- Settles O44. -/
theorem commandBeforeResetIsRefused : Obligations.CommandBeforeResetIsRefused := by
  intro s hport
  refine ⟨fun rst => outputs_of_unreset rst hport, fun hrst hvalid => ?_, fun hrst => ⟨_, step_of_rst hrst, rfl⟩⟩
  rw [step_of_unreset hrst hport, if_pos hvalid]

/-- The wait of a command depends on the word and the registers alone, so not on the inputs. -/
theorem waitOf_consumePins (c : Command) (s : State) : waitOf c (consumePins s) = waitOf c s := rfl

/-- 70_reset R75 point 3: the edge that performs a command offers its response. -/
theorem port_of_performCommand {c : Command} {s t : State} (h : performCommand c s = .next t) :
    ∃ r, t.port = .answering r := by
  obtain ⟨u, r, hu, hport⟩ := performCommand_completes c s
  cases h.symm.trans hu
  exact ⟨r, hport⟩

/-- 70_reset R76: a command in flight came from the same command waiting one edge longer, or was accepted by an idle
block. -/
theorem RunEdge.busy_cases {s t : State} (h : RunEdge s t) {c : Command} {k : Nat} (ht : t.port = .busy c k) :
    s.port = .busy c (k + 1) ∨ (s.port = .idle ∧ (pinsNow s).cmdValid = true) := by
  cases h with
  | quiet hquiet hsame =>
    rw [hsame, consumePins_port] at ht
    simp [ht] at hquiet
  | accept hport hvalid _ => exact .inr ⟨hport, hvalid⟩
  | wait d j hport hwait => subst hwait; cases ht; exact .inl hport
  | perform d _ hperform =>
    obtain ⟨r, hanswer⟩ := port_of_performCommand hperform
    cases ht.symm.trans hanswer
  | take _ _ _ htake => subst htake; cases ht

/-- Settles O42. -/
theorem commandAcceptedOnlyWhenIdle : Obligations.CommandAcceptedOnlyWhenIdle := by
  refine ⟨fun s hport hrst hvalid => ?_, fun _ _ _ => cmdReady_iff,
    fun _ _ h hrst _ _ => (runEdge_of_step h hrst).busy_cases⟩
  rw [step_of_idle hrst hport, if_pos hvalid, acceptCommand, waitOf_consumePins]
  rfl

/-- 70_reset R72, R81: the one refusal is of a block that was never reset. -/
theorem step_completes_of_reset {s : State} (hport : s.port ≠ .unreset) : ∃ t, step s = .next t := by
  cases hrst : (pinsNow s).rst with
  | true => exact ⟨_, step_of_rst hrst⟩
  | false =>
    cases h : s.port with
    | unreset => exact absurd h hport
    | idle =>
      rw [step_of_idle hrst h, ← apply_ite]
      exact ⟨_, rfl⟩
    | busy c k =>
      cases k with
      | zero =>
        obtain ⟨t, -, hperform, -⟩ := performCommand_completes c (consumePins s)
        exact ⟨t, (step_of_performing hrst h).trans hperform⟩
      | succ k => exact ⟨_, step_of_waiting hrst h⟩
    | answering r =>
      rw [step_of_answering hrst h, ← apply_ite]
      exact ⟨_, rfl⟩

/-- 70_reset R72: an edge leaves a block unreset only where it was. -/
theorem RunEdge.unreset_of_unreset {s t : State} (h : RunEdge s t) (ht : t.port = .unreset) :
    s.port = .unreset := by
  cases h with
  | quiet _ hsame => rwa [hsame, consumePins_port] at ht
  | accept _ _ haccept => subst haccept; cases ht
  | wait _ _ _ hwait => subst hwait; cases ht
  | perform _ _ hperform =>
    obtain ⟨r, hanswer⟩ := port_of_performCommand hperform
    cases ht.symm.trans hanswer
  | take _ _ _ htake => subst htake; cases ht

/-- Settles O49. -/
theorem noTerminalStateAfterReset : Obligations.NoTerminalStateAfterReset := by
  intro s hport
  obtain ⟨t, hstep⟩ := step_completes_of_reset hport
  refine ⟨t, hstep, fun ht => ?_⟩
  cases hrst : (pinsNow s).rst with
  | true =>
    rw [eq_resetEdge_of_step hstep hrst, resetEdge_port] at ht
    cases ht
  | false => exact hport ((runEdge_of_step hstep hrst).unreset_of_unreset ht)

/-! ## Performing and placing a command -/

/-- Settles O50. -/
theorem stepRunsDecodedInstruction : Obligations.StepRunsDecodedInstruction := by
  intro s c hport hrst
  refine ⟨fun i hdecode => ?_, fun op hdecode => ?_⟩
  · rw [step_of_performing hrst hport, performCommand_of_command hdecode]
    rfl
  · rw [step_of_performing hrst hport, performCommand_of_reserved hdecode, raise, reject_illegalOp]
    rfl

/-- Assumption 3: a placed command is not lost to a reset at the edge that performs it. -/
theorem rst_pinsNow_placeAccepted (c : Command) (s : State) : (pinsNow (placeAccepted c s)).rst = false := by
  unfold placeAccepted
  split_ifs with hrst
  · rfl
  · exact Bool.eq_false_iff.mpr hrst

/-- Assumption 3: the edge that performs a placed command consumes an input sample, or the quiet one put before it. -/
theorem consumePins_placeAccepted (c : Command) (s : State) :
    consumePins (placeAccepted c s) =
      { s with port := .busy c 0, pins := if (pinsNow s).rst then s.pins else s.pins.tail } := by
  unfold placeAccepted
  split_ifs <;> rfl

theorem withFetchWord_encode (s : State) (i : Instr) :
    s.withFetchWord 72 (encode i).toNat = placeCommand (encode i) s := by
  rw [State.withFetchWord, commandOfNumber_toNat]

/-- Settles O51. -/
theorem placedCommandRunsNext : Obligations.PlacedCommandRunsNext := by
  intro s i
  rw [withFetchWord_encode]
  refine ⟨fun hport => ?_, fun hport => ?_⟩
  · rw [placeCommand_of_reset _ hport, step_of_performing (rst_pinsNow_placeAccepted _ s) rfl,
      performCommand_of_command (decode_encode i), consumePins_placeAccepted]
  · rw [placeCommand_of_unreset _ hport]
    exact step_of_unreset (s := s.withPins (Pins.offer (encode i) :: s.pins)) rfl hport

/-! ## Latency -/

/-- Settles O45. -/
theorem latencyIsBounded : Obligations.LatencyIsBounded := by
  intro c s
  refine ⟨Nat.le_add_left 1 _, waitOf_lt_longestLatency c s, fun i hdecode => ?_⟩
  rw [latencyOf, waitOf_of_command hdecode]
  exact instrWait_lt_latencyBound i _

/-- The wait of an opcode's command with argument 0, by whether it is accepted; 0 for a reserved op, which is no
command's opcode. -/
def waitOfOpcode (op : Opcode) (accepted : Bool) : Nat :=
  match decode (commandOf op 0#64) with
  | .command i => instrWait i accepted
  | .reserved _ => 0

/-- 70_reset R80: but for BWIDTH and SETN no command's wait depends on its argument. -/
theorem instrWait_eq_waitOfOpcode {i : Instr} (hbwidth : i.opcode ≠ 0x10#8) (hsetn : i.opcode ≠ 0x11#8)
    (accepted : Bool) : instrWait i accepted = waitOfOpcode i.opcode accepted := by
  cases i with
  | bwidth n => exact absurd rfl hbwidth
  | setn n => exact absurd rfl hsetn
  | readc | seed | step | reads | map | sample => simp [waitOfOpcode, decode, Instr.opcode, instrWait]

/-- 60_exceptions R59: status 0 stands on exactly the words with no cause. -/
theorem status_ok_iff {c : Command} {s t : State} {r : Response} (h : performCommand c s = .next t)
    (hport : t.port = .answering r) : r.status = 0#4 ↔ causeOf c s = none := by
  obtain ⟨cause, hcause, rfl⟩ | ⟨hcause, -, result, hanswer⟩ :=
    (performed_of_performCommand h).rejected_or_accepted
  · cases hport
    rw [hcause]
    exact iff_of_false (causeCode_ne_statusOk cause) nofun
  · cases hanswer.symm.trans hport
    exact iff_of_true rfl hcause

/-- The status answered says whether the command was accepted. -/
theorem isNone_rejectionOf {i : Instr} {s t : State} {r : Response} (h : exec i s = .next t)
    (hport : t.port = .answering r) : (rejectionOf i s).isNone = decide (r.status = 0#4) := by
  rw [← performCommand_of_command (decode_encode i)] at h
  rw [Bool.eq_iff_iff, Option.isNone_iff_eq_none, decide_eq_true_iff, status_ok_iff h hport,
    causeOf_of_command (decode_encode i)]

/-- Settles O46: the wait is that of the opcode, with the status saying accept or reject. -/
theorem latencyIsDataIndependent : Obligations.LatencyIsDataIndependent := by
  intro i j s u t v r q hopcode hbwidth hsetn ht hr hv hq hstatus
  rw [latencyOf, latencyOf, waitOf_of_command (decode_encode i), waitOf_of_command (decode_encode j),
    isNone_rejectionOf ht hr, isNone_rejectionOf hv hq, instrWait_eq_waitOfOpcode hbwidth hsetn,
    instrWait_eq_waitOfOpcode (hopcode ▸ hbwidth) (hopcode ▸ hsetn), hopcode, decide_eq_decide.mpr hstatus]

/-! ## A command from acceptance to answer -/

theorem steps_succ_of_step {s t : State} (h : step s = .next t) (k : Nat) : steps (k + 1) s = steps k t := by
  rw [steps, h]

/-- What is left of a reset-free run after some of its edges is reset-free. -/
theorem ResetFree.after_steps {j k : Nat} {s t : State} (h : ResetFree (j + k) s) (hrun : steps j s = some t) :
    ResetFree k t := by
  induction j generalizing s with
  | zero =>
    cases hrun
    rwa [Nat.zero_add] at h
  | succ j ih =>
    rw [Nat.succ_add] at h
    obtain ⟨u, hstep, hrest⟩ := steps_succ_eq_some hrun
    exact ih (h.after_step hstep) hrest

theorem ResetFree.mono {j k : Nat} {s : State} (h : ResetFree k s) (hjk : j ≤ k) : ResetFree j s :=
  fun p hp => h p (List.take_subset_take_left s.pins hjk hp)

/-- 70_reset R75 point 3: while a command waits, an edge counts its wait down and consumes an input sample. -/
theorem steps_of_busy {c : Command} {wait k : Nat} {s : State} (hport : s.port = .busy c wait) (hk : k ≤ wait)
    (hfree : ResetFree k s) :
    steps k s = some { s with port := .busy c (wait - k), pins := s.pins.drop k } := by
  induction k generalizing wait s with
  | zero =>
    rw [Nat.sub_zero, ← hport]
    rfl
  | succ k ih =>
    obtain ⟨wait, rfl⟩ : ∃ w, wait = w + 1 := Nat.exists_eq_add_one.mpr (Nat.zero_lt_of_lt hk)
    have hstep := step_of_waiting hfree.head hport
    rw [steps_succ_of_step hstep, ih rfl (Nat.le_of_succ_le_succ hk) (hfree.after_step hstep),
      Nat.add_sub_add_right, State.withPort_pins, consumePins_pins, List.drop_tail]
    rfl

/-- 20_memory R20: what a command does depends on no control state of the port. -/
theorem performCommand_withPort (c : Command) (s : State) (p : Port) :
    performCommand c (s.withPort p) = performCommand c s := by
  obtain ⟨t, -, h, -⟩ := performCommand_completes c s
  have hplaced : performCommand c (s.withPort p) = .next (t.withPins s.pins) := performCommand_port_pins h p s.pins
  have hsame : performCommand c s = .next (t.withPins s.pins) := performCommand_port_pins h s.port s.pins
  rw [hplaced, hsame]

/-- 70_reset R75 points 1 and 3: from its acceptance on, a command waits out its latency. -/
theorem steps_of_accepted {s : State} {k : Nat} (hport : s.port = .idle) (hvalid : (pinsNow s).cmdValid = true)
    (hk : k ≤ waitOf (offeredCommand (pinsNow s)) s) (hfree : ResetFree (k + 1) s) :
    steps (k + 1) s = some { s with
      port := .busy (offeredCommand (pinsNow s)) (waitOf (offeredCommand (pinsNow s)) s - k)
      pins := s.pins.drop (k + 1) } := by
  have hstep : step s = .next (acceptCommand (offeredCommand (pinsNow s)) (consumePins s)) := by
    rw [step_of_idle hfree.head hport, if_pos hvalid]
  rw [steps_succ_of_step hstep, steps_of_busy rfl hk (hfree.after_step hstep), acceptCommand_pins, consumePins_pins,
    List.drop_tail]
  rfl

/-- Settles O47: after the last edge of the wait, the next performs the command, from the registers it was accepted
with. -/
theorem commandAnsweredAfterItsLatency : Obligations.CommandAnsweredAfterItsLatency := by
  rintro s c hport hvalid rfl hfree
  refine ⟨fun k hlow hhigh => ?_, ?_⟩
  · obtain ⟨k, rfl⟩ : ∃ j, k = j + 1 := Nat.exists_eq_add_one.mpr hlow
    rw [latencyOf, Nat.add_sub_add_right]
    exact steps_of_accepted hport hvalid (Nat.le_of_succ_le_succ hhigh)
      (hfree.mono (Nat.le_succ_of_le hhigh))
  · have hwait := steps_of_accepted hport hvalid le_rfl (hfree.mono (Nat.le_succ _))
    have hlast := (hfree.after_steps hwait).head
    rw [Nat.sub_self] at hwait hlast
    obtain ⟨t, -, hperform, -⟩ := performCommand_completes (offeredCommand (pinsNow s))
      { s with pins := s.pins.drop (latencyOf (offeredCommand (pinsNow s)) s + 1) }
    refine ⟨t, steps_snoc hwait ?_, hperform⟩
    rw [step_of_performing hlast rfl, ← hperform,
      ← performCommand_withPort _ _ (.busy (offeredCommand (pinsNow s)) 0), consumePins, List.tail_drop]
    rfl

/-! ## Bits move down -/

/-- Settles O18. -/
theorem lfsrCopiesBitsDown : Obligations.LfsrCopiesBitsDown :=
  fun s _ _ _ hi => getLsbD_lfsrIter s (by omega)

/-! ## SETN, SEED and MAP in a row -/

/-- A response taken leaves an idle block as it was before the answer. -/
theorem takeResponse_answeredWith {s : State} (hidle : s.port = .idle) (result : Word) :
    takeResponse (answeredWith result s) = s := by
  cases s
  cases hidle
  rfl

/-- The transaction of an accepted command: its result, and the registers it leaves. -/
theorem transact_of_accepted {i : Instr} {s u : State} {result : Word} (hidle : s.port = .idle)
    (hu : u.port = .idle) (hexec : exec i s = .next (answeredWith result u)) :
    transact (encode i) s = some ({ status := 0#4, result := result }, u) := by
  rw [transact_encode_of_exec hidle hexec rfl, takeResponse_answeredWith hu]

theorem session_pair {c d : Command} {s u t : State} {r q : Response} (hfirst : transact c s = some (r, u))
    (hsecond : transact d u = some (q, t)) : session [c, d] s = some ([r, q], t) := by
  rw [session_cons_of_transact hfirst, session_cons_of_transact hsecond]
  rfl

theorem transact_seed {v : Word} (hv : v ≠ 0#64) {s : State} (hidle : s.port = .idle) :
    transact (encode (.seed v)) s = some ({ status := 0#4, result := v }, s.withState v) :=
  transact_of_accepted hidle hidle (exec_seed_of_ne_zero hv s)

theorem transact_map {key : Word} {s : State} (hconfigured : s.ncfg ≠ 0#32) (hidle : s.port = .idle) :
    transact (encode (.map key)) s =
      some ({ status := 0#4, result := (bucketIndex key s.bcfg s.ncfg).setWidth 64 }, s) :=
  transact_of_accepted hidle hidle (exec_map_of_configured key hconfigured)

/-- 42_mapper R57: the transaction of SAMPLE on a seeded, configured block. -/
theorem transact_sample {s : State} (hseeded : s.state ≠ 0#64) (hconfigured : s.ncfg ≠ 0#32)
    (hidle : s.port = .idle) :
    transact (encode .sample) s =
      some ({ status := 0#4, result := (bucketIndex s.state s.bcfg s.ncfg).setWidth 64 }, s) := by
  refine transact_of_accepted hidle hidle ?_
  rw [exec_sample_of_seeded hseeded, exec_map_of_configured _ hconfigured]

section LegalCount

variable {n : Word} (hlow : 1 ≤ n.toNat) (hhigh : n.toNat < 2 ^ 32)

include hlow hhigh

theorem transact_setn {s : State} (hidle : s.port = .idle) :
    transact (encode (.setn n)) s =
      some ({ status := 0#4, result := (bitWidth (countOf n)).setWidth 64 },
        s.withConfig (countOf n) (bitWidth (countOf n))) :=
  transact_of_accepted hidle hidle (exec_setn_of_accepted (countCheck_eq_none_iff.mpr ⟨hlow, hhigh⟩) s)

/-- 70_reset R77: under the pair that SETN writes, the index of a key is that of plain arithmetic, below n. -/
theorem bucketIndex_countOf (key : Word) :
    (bucketIndex key (bitWidth (countOf n)) (countOf n)).toNat =
        indexByArithmetic key.toNat (bitWidth (countOf n)).toNat n.toNat ∧
      (bucketIndex key (bitWidth (countOf n)) (countOf n)).toNat < n.toNat := by
  have hcount : (countOf n).toNat = n.toNat := by rw [countOf_toNat, Nat.mod_eq_of_lt hhigh]
  have hcontract : 2 ^ (bitWidth (countOf n)).toNat ≤ (countOf n).toNat :=
    (isBitWidth_bitWidth (countOf_ne_zero hlow hhigh)).1
  simpa only [hcount] using bucketIndex_toNat key hcontract

end LegalCount

/-- Settles O53: the contract of `bucket_index` holds of the new pair. -/
theorem mapAfterSetnUsesNewPair : Obligations.MapAfterSetnUsesNewPair := by
  intro n key s hlow hhigh hidle
  obtain ⟨hvalue, hbelow⟩ := bucketIndex_countOf hlow hhigh key
  refine ⟨_, _, isBitWidth_bitWidth_countOf hlow hhigh, hvalue, hbelow, ?_⟩
  rw [session_pair (transact_setn hlow hhigh hidle) (transact_map (countOf_ne_zero hlow hhigh) hidle),
    ← countOf_eq_setWidth]
  rfl

/-- Settles O54: SETN and SEED write different registers, so they commute. -/
theorem bootStepsInEitherOrder : Obligations.BootStepsInEitherOrder := by
  intro n v hlow hhigh hv
  have hsample := transact_sample
    (s := (State.reset.withConfig (countOf n) (bitWidth (countOf n))).withState v) hv
    (countOf_ne_zero hlow hhigh) rfl
  refine ⟨_, _, _, _, session_pair (transact_setn hlow hhigh rfl) (transact_seed hv rfl),
    session_pair (transact_seed hv rfl) (transact_setn hlow hhigh rfl), rfl, hsample, rfl, ?_⟩
  exact (BitVec.toNat_setWidth_of_le (by omega)).trans_lt (bucketIndex_countOf hlow hhigh v).2

end Sys2Proof.Machine


/-! # Repeated commands and table words: what is left of spec/20_memory.md and spec/30_encoding.md

A command performed again meets the registers its first run left, whatever stands on the port
(`performCommand_withPort`). A rejection writes ERRS alone, which decides no cause (`causeOf_reject`), so it is met
again and sets a bit already set (`reject_reject`). A command that writes no register answers as before, and SETN and
SEED write the values of their argument once more. -/

namespace Sys2Proof.Machine

/-! ## A rejection met again -/

/-- 60_exceptions R59: the second of two equal rejections finds its bit of ERRS set. -/
theorem reject_reject (cause : Cause) (s : State) : reject cause (reject cause s) = reject cause s := by
  have hsticky : recordError cause (recordError cause s.errs) = recordError cause s.errs := by
    rw [recordError, recordError, BitVec.or_assoc, BitVec.or_self]
  rw [reject, reject_errs, hsticky]
  rfl

/-- 60_exceptions R60: no cause depends on ERRS. -/
theorem causeOf_reject (c : Command) (cause : Cause) (s : State) : causeOf c (reject cause s) = causeOf c s := by
  cases hdecode : decode c with
  | reserved op => rw [causeOf_of_reserved hdecode, causeOf_of_reserved hdecode]
  | command i =>
    rw [causeOf_of_command hdecode, causeOf_of_command hdecode]
    cases i <;> rfl

/-- 60_exceptions R58, R59: a word with a cause ends in the entry of its rejection. -/
theorem performCommand_of_causeOf {c : Command} {s : State} {cause : Cause} (h : causeOf c s = some cause) :
    performCommand c s = .next (reject cause s) := by
  obtain ⟨t, -, hperform, -⟩ := performCommand_completes c s
  obtain ⟨raised, hraised, rfl⟩ | ⟨haccepted, -⟩ := (performed_of_performCommand hperform).rejected_or_accepted
  · cases h.symm.trans hraised
    exact hperform
  · cases h.symm.trans haccepted

/-- A rejected word is rejected again, and to no further effect. -/
theorem performCommand_reject {c : Command} {s : State} {cause : Cause}
    (h : performCommand c s = .next (reject cause s)) :
    performCommand c (reject cause s) = .next (reject cause s) := by
  have hcause : causeOf c s = some cause := (status_eq_causeCode_iff h (reject_port cause s) cause).mp rfl
  rw [performCommand_of_causeOf ((causeOf_reject c cause s).trans hcause), reject_reject]

/-! ## Any command but STEP met again -/

/-- Settles O55: STEP alone writes a value that depends on the register it writes. -/
theorem allButStepAreIdempotent : Obligations.AllButStepAreIdempotent := by
  intro c s t hnotStep hperform
  rw [takeResponse, performCommand_withPort]
  cases performed_of_performCommand hperform with
  | rejected cause _ ht =>
    subst ht
    exact performCommand_reject hperform
  | read _ _ _ _ ht =>
    rw [← hperform, ht, answer, performCommand_withPort]
  | configure n hdecode haccepted ht =>
    rw [performCommand_of_command hdecode, exec_setn_of_accepted haccepted, ht]
    rfl
  | seed v hdecode haccepted ht =>
    rw [performCommand_of_command hdecode, exec_seed_of_ne_zero (seedCheck_eq_none_iff.mp haccepted), ht]
    rfl
  | advance hdecode _ _ => exact absurd hdecode hnotStep

end Sys2Proof.Machine

namespace Sys2Proof

/-! ## Words of the opcode table -/

/-- 30_encoding R28, R30: STEP, whatever its argument. -/
theorem decode_commandOf_step (arg : Word) : decode (commandOf 0x21#8 arg) = .command .step := by
  simp [decode]

/-- Settles O2: each word is its two fields side by side; READC and STEP come with an argument they ignore. -/
theorem tableWordsDecode : Obligations.TableWordsDecode :=
  ⟨decode_encode (.bwidth 120#64), decode_encode (.setn 0x100000078#64), Machine.decode_commandOf_readc 0xABCD#64,
    decode_encode (.seed 0x8000000000000000#64), decode_commandOf_step 0xFFFF#64, decode_encode .reads,
    decode_encode (.map 0x1F7D#64), decode_encode .sample,
    (decode_commandOf_reserved_iff 0x13#8 0x78#64).mpr (.inr (.inl (by decide)))⟩

end Sys2Proof
